-- ==== Sys2Proof/Word.lean ====
section
/-! DEFINITION. The two word widths of the Serial ADU Codec (spec/00_scope.md R11): the spec's `bits8` and `bits16`.
Byte sequences (R12) are lists of bytes, index 0 first. -/

namespace Sys2Proof

/-- `bits8`: a byte. -/
abbrev Byte := BitVec 8

/-- `bits16`: the width of the CRC values. -/
abbrev Half := BitVec 16

end Sys2Proof
end

