-- ==== Sys2Proof/Syntax.lean ====
section
/-! DEFINITION. The operations of the block as typed syntax: the 13 rows of spec/30_encoding.md R95, and the command
record (R102) in which the host presents one. -/

namespace Sys2Proof

/-- The frame variant: "enumeration of exactly two values" (spec/10_state.md R20). -/
inductive Variant where
  | ascii
  | rtu
  deriving DecidableEq, Repr

/-- A PDU as a value, the pair `(fc, pdata)` (spec/30_encoding.md R81). -/
structure Pdu where
  /-- Function code; no value has a meaning to the block. -/
  fc : Byte
  /-- PDU data, any length, zero included. -/
  pdata : List Byte
  deriving DecidableEq, Repr

/-- The 13 host-visible operations (spec/30_encoding.md R95), one constructor per row of the opcode table. -/
inductive Instr where
  /-- `DECODE variant, bytes` (R120). -/
  | decode (variant : Variant) (bytes : List Byte)
  /-- `EMPTY` (R121). -/
  | empty
  /-- `SIZE` (R122). -/
  | size
  /-- `DATA` (R123). -/
  | data
  /-- `SERVER_ADDRESS` (R124). -/
  | serverAddress
  /-- `PDU` (R125). -/
  | pdu
  /-- `CHECKSUM` (R126). -/
  | checksum
  /-- `RAW_SIZE` (R127). -/
  | rawSize
  /-- `RAW_DATA` (R128). -/
  | rawData
  /-- `LRC8 bytes` (R150). -/
  | lrc8 (bytes : List Byte)
  /-- `CRC16 bytes` (R154). -/
  | crc16 (bytes : List Byte)
  /-- `MATCHES` (R163). -/
  | matchesTrailer
  /-- `ENCODE variant, addr, (fc, pdata), delim` (R190). -/
  | encode (variant : Variant) (addr : Byte) (pdu : Pdu) (delim : Byte)
  deriving DecidableEq, Repr

/-- A command as the host presents it: the record `(op, operands)` of spec/30_encoding.md R102. `op` and `variant` are
its only coded fields; the others are the typed operands of the formats `B`, `VB` and `E`. An operation reads the fields
its format names and no others (notes/assumptions/6). -/
structure Command where
  /-- `op[3:0]`. -/
  op : BitVec 4
  /-- `variant[0]`, formats `VB` and `E`. -/
  variant : BitVec 1
  /-- `bytes`, formats `B` and `VB`. -/
  bytes : List Byte
  /-- `addr[7:0]`, format `E`. -/
  addr : Byte
  /-- `fc[7:0]`, format `E`. -/
  fc : Byte
  /-- `pdata`, format `E`. -/
  pdata : List Byte
  /-- `delim[7:0]`, format `E`. -/
  delim : Byte
  deriving DecidableEq, Repr

end Sys2Proof
end

