-- ==== Sys2Proof/Decode.lean ====
section
/-! DEFINITION. The command decoder and encoder (spec/30_encoding.md R96, R97, R102) and the table-word forms of both.
Not to be taken for DECODE and ENCODE, the operations on frames. -/

namespace Sys2Proof

/-- Why a command selects no operation. -/
inductive DecodeError where
  /-- `op` is 0xD, 0xE or 0xF (R97). -/
  | reservedOp (op : BitVec 4)
  deriving DecidableEq, Repr

/-- The variant's code: `Ascii` = 0, `Rtu` = 1 (spec/10_state.md R20). -/
def variantCode : Variant → BitVec 1
  | .ascii => 0#1
  | .rtu => 1#1

/-- The variant a code names; both values of the bit are legal. -/
def variantOfCode (c : BitVec 1) : Variant :=
  if c = 1#1 then .rtu else .ascii

/-- The select codes of R96. -/
def opCode : Instr → BitVec 4
  | .decode _ _ => 0x0#4
  | .empty => 0x1#4
  | .size => 0x2#4
  | .data => 0x3#4
  | .serverAddress => 0x4#4
  | .pdu => 0x5#4
  | .checksum => 0x6#4
  | .rawSize => 0x7#4
  | .rawData => 0x8#4
  | .lrc8 _ => 0x9#4
  | .crc16 _ => 0xA#4
  | .matchesTrailer => 0xB#4
  | .encode _ _ _ _ => 0xC#4

/-- The operation a command selects, with the operands its format names (R96, R102); the reserved codes by name (R97). -/
def decode (c : Command) : Except DecodeError Instr :=
  match c.op.toNat with
  | 0x0 => .ok (.decode (variantOfCode c.variant) c.bytes)
  | 0x1 => .ok .empty
  | 0x2 => .ok .size
  | 0x3 => .ok .data
  | 0x4 => .ok .serverAddress
  | 0x5 => .ok .pdu
  | 0x6 => .ok .checksum
  | 0x7 => .ok .rawSize
  | 0x8 => .ok .rawData
  | 0x9 => .ok (.lrc8 c.bytes)
  | 0xA => .ok (.crc16 c.bytes)
  | 0xB => .ok .matchesTrailer
  | 0xC => .ok (.encode (variantOfCode c.variant) c.addr { fc := c.fc, pdata := c.pdata } c.delim)
  | _ => .error (.reservedOp c.op)

/-- A command whose word is `op`, `variant` and whose typed operands are all zero or empty. -/
def bareCommand (op : BitVec 4) (variant : BitVec 1) : Command :=
  { op := op, variant := variant, bytes := [], addr := 0, fc := 0, pdata := [], delim := 0 }

/-- The command that presents an operation; fields its format does not name are zero or empty. -/
def encode (i : Instr) : Command :=
  match i with
  | .decode v bytes => { bareCommand (opCode i) (variantCode v) with bytes := bytes }
  | .lrc8 bytes => { bareCommand (opCode i) 0 with bytes := bytes }
  | .crc16 bytes => { bareCommand (opCode i) 0 with bytes := bytes }
  | .encode v addr p delim =>
    { bareCommand (opCode i) (variantCode v) with addr := addr, fc := p.fc, pdata := p.pdata, delim := delim }
  | .empty | .size | .data | .serverAddress | .pdu | .checksum | .rawSize | .rawData | .matchesTrailer =>
    bareCommand (opCode i) 0

/-- The short form `ENCODE v, a, pdu`: the delimiter is `'\n'`, 0x0A (R101 (a), spec/00_scope.md R14). -/
def encodeDefault (v : Variant) (addr : Byte) (p : Pdu) : Instr :=
  .encode v addr p 0x0A#8

/-- The coded part of a command as one word: `op` in bits 3 to 0, `variant` in bit 4 (R102), the rest zero. -/
def Command.tableWord (c : Command) : BitVec 8 :=
  0#3 ++ c.variant ++ c.op

/-- The command a table word stands for, its typed operands zero or empty. Bits 7 to 5 are not read: R102 gives the word
five bits (notes/assumptions/7). -/
def commandOfWord (w : BitVec 8) : Command :=
  bareCommand (w.extractLsb' 0 4) (w.extractLsb' 4 1)

/-- The command whose bits, numbered as the opcode table numbers them, are the low `nbits` bits of `w`. -/
def commandOfTableBits (nbits w : Nat) : Command :=
  commandOfWord (BitVec.ofNat 8 (w % 2 ^ nbits))

/-- The operation the decoder reads from a table word. -/
def decodeTableWord (nbits w : Nat) : Option Instr :=
  match decode (commandOfTableBits nbits w) with
  | .ok i => some i
  | .error _ => none

end Sys2Proof
end

