-- ==== Sys2Proof/Machine/Checksum.lean ====
section
/-! DEFINITION. The two checksum generators as pure functions (spec/41_checksum.md R150 to R159). The CRC is the bit by bit
procedure of the source, kept exactly (spec/70_reset_and_hazards.md R250). They share nothing (R165). -/

namespace Sys2Proof.Machine

/-! ### LRC-8 (R150, R151) -/

/-- `LRC.INIT`: the start value of `sum`. -/
def lrcInit : Byte := 0x00#8

/-- `LRC.BYTE c` on the register `sum`. -/
def lrcByte (sum c : Byte) : Byte := sum + c

/-- `LRC.FINAL`: the two's complement of `sum`. -/
def lrcFinal (sum : Byte) : Byte := -sum

/-- `Sum8` (R150). -/
def sum8 (bytes : List Byte) : Byte := bytes.foldl lrcByte lrcInit

/-- `Lrc` (R150). -/
def lrc (bytes : List Byte) : Byte := lrcFinal (sum8 bytes)

/-! ### CRC-16 (R154 to R159) -/

/-- `CRC_POLY` (spec/00_scope.md R10). -/
def crcPoly : Half := 0x8005#16

/-- `CRC.INIT` (R155). -/
def crcInit : Half := 0xFFFF#16

/-- `CRC.BIT d` (R156): the condition is the high bit, before the shift, XOR the input bit. -/
def crcBit (crc : Half) (d : Bool) : Half :=
  if (crc.msb ^^ d) then (crc <<< 1) ^^^ crcPoly else crc <<< 1

/-- `CRC.BYTE c` (R157): eight bit steps, bit 0 of the byte first. -/
def crcByte (crc : Half) (c : Byte) : Half :=
  (List.range 8).foldl (fun r k => crcBit r (c.getLsbD k)) crc

/-- `CrcReg` (R157). -/
def crcReg (bytes : List Byte) : Half := bytes.foldl crcByte crcInit

/-- `Reflect16` (R158): `y[i] = x[15 − i]`. -/
def reflect16 (x : Half) : Half := x.reverse

/-- `Swap16` (R159): the two bytes exchanged. -/
def swap16 (x : Half) : Half := x.extractLsb' 0 8 ++ x.extractLsb' 8 8

/-- `crc_std` (R158). -/
def crcStd (bytes : List Byte) : Half := reflect16 (crcReg bytes)

/-- `CRC.FINAL` (R159): reflection, then the byte swap. -/
def crcFinal (reg : Half) : Half := swap16 (reflect16 reg)

/-- `crc_out`, the generator's output (R159). -/
def crcOut (bytes : List Byte) : Half := crcFinal (crcReg bytes)

/-- The two trailer bytes in wire order, `crc_out[15:8]` then `crc_out[7:0]` (spec/20_memory.md R53). -/
def crcTrailer (o : Half) : List Byte := [o.extractLsb' 8 8, o.extractLsb' 0 8]

end Sys2Proof.Machine
end

