-- ==== Sys2Proof/Config.lean ====
section
/-! DEFINITION. The two quantities the spec leaves OPEN (spec/00_scope.md R10): `HEXCASE` and `MAX_LEN`.
They are fixed when an instance is made and never change (spec/70_reset_and_hazards.md R242). Every state carries its
instance's pair as plain data, and the reset state takes it from two constants without a body. -/

namespace Sys2Proof

/-- `HEXCASE`: the case of the hex letters the encoder emits (R10, spec/30_encoding.md R85). -/
inductive HexCase where
  | upper
  | lower
  deriving DecidableEq, Repr, Inhabited

/-- The parameters of one instance (R10). -/
structure Params where
  /-- `HEXCASE`. -/
  hexCase : HexCase
  /-- `MAX_LEN`, the longest byte sequence the instance accepts or returns (spec/20_memory.md R52). -/
  maxLen : Nat
  deriving DecidableEq, Repr, Inhabited

/-- `HEXCASE` of the instance the reset state describes: OPEN, no value can be proved of it (notes/assumptions/3). -/
opaque Config.hexCase : HexCase

/-- `MAX_LEN` of the instance the reset state describes: OPEN, no value can be proved of it (notes/assumptions/3). -/
opaque Config.maxLen : Nat

/-- The parameters of the instance the reset state describes. -/
def Config.params : Params := { hexCase := Config.hexCase, maxLen := Config.maxLen }

end Sys2Proof
end

