-- ==== Sys2Proof/Machine/State.lean ====
section
/-! DEFINITION. The state of one instance of the block (spec/10_state.md), as plain data, and the ways a step can stop. -/

namespace Sys2Proof.Machine

/-- A Serial ADU, the "sole entity" the unit register can hold (spec/10_state.md R21, R22). -/
structure SerialAdu where
  /-- `unit.variant` (R20). -/
  variant : Variant
  /-- `unit.raw`: the bytes exactly as on the wire (R22). -/
  raw : List Byte
  deriving DecidableEq, Repr

/-- The causes of a PreconditionViolation (spec/60_exceptions.md R211). -/
inductive FaultCause where
  /-- 1: no unit is loaded. -/
  | noUnit
  /-- 2: the payload is empty. -/
  | emptyUnit
  /-- 3: the payload is shorter than the trailer. -/
  | shortUnit
  /-- 4: the data region is empty. -/
  | noAddress
  /-- 5: the data region is one byte. -/
  | noFunctionCode
  deriving DecidableEq, Repr

/-- The three refusals of spec/60_exceptions.md R219, none of which changes the block's state. -/
inductive Rejection where
  /-- The command's `op` is reserved (spec/30_encoding.md R97). -/
  | reservedOp
  /-- An operand or the response would be longer than `MAX_LEN` (spec/20_memory.md R52). -/
  | tooLong
  /-- A fault is recorded (R214). -/
  | faulted
  deriving DecidableEq, Repr

/-- What the host gets back for one command: a value, a fault, or a refusal (spec/00_scope.md R4; widths in
spec/20_memory.md R58; notes/assumptions/1). -/
inductive Response where
  /-- DECODE: no value, a unit has been loaded. -/
  | loaded
  /-- One bit: EMPTY, MATCHES. -/
  | bit (b : Bool)
  /-- A natural number: SIZE, RAW_SIZE. -/
  | number (n : Nat)
  /-- 8 bits: SERVER_ADDRESS, LRC8, CHECKSUM of an `Ascii` unit. -/
  | byte (b : Byte)
  /-- 16 bits: CRC16, CHECKSUM of an `Rtu` unit. -/
  | half (h : Half)
  /-- A byte sequence: DATA, RAW_DATA, ENCODE. -/
  | bytes (bs : List Byte)
  /-- The pair `(fc, pdata)`: PDU. -/
  | pdu (p : Pdu)
  /-- No value: the operation raised a PreconditionViolation (R213). -/
  | fault (c : FaultCause)
  /-- No value: the command was refused (R219). -/
  | refused (r : Rejection)
  deriving DecidableEq, Repr

/-- What the host can do to an instance: issue a command, or apply reset between operations (R60, R241). -/
inductive HostEvent where
  | command (c : Command)
  | reset
  deriving DecidableEq, Repr

/-- One instance of the block (spec/10_state.md R21, R27, R32), with what the host has issued and received. -/
structure State where
  /-- The unit register: `none` is `unit.loaded = 0`, `some u` is `unit.loaded = 1` with its two fields (R21, R34, U5). -/
  unit : Option SerialAdu
  /-- The sticky fault record, `none` or a cause (R27). -/
  fault : Option FaultCause
  /-- `HEXCASE` and `MAX_LEN`, which no step changes (R242). -/
  params : Params
  /-- What the host has issued and the block has not yet performed, oldest first (the model's own field,
  notes/assumptions/2). -/
  inbox : List HostEvent
  /-- What the last command performed gave back; `none` if there was none since reset (notes/assumptions/4). -/
  response : Option Response
  deriving DecidableEq, Repr

/-- The block right after reset (R34, R240): no unit, no fault. -/
def State.reset : State :=
  { unit := none, fault := none, params := Config.params, inbox := [], response := none }

/-- `unit.loaded` (R21). -/
def State.loaded (s : State) : Bool := s.unit.isSome

/-- The machine never stops with a fault: fault entry is a next state with the cause recorded (R213), and no behaviour of
the spec is left without an effect. Nobody raises it, so it has no constructor: safe. -/
inductive Fault
  deriving DecidableEq, Repr

/-- Why a step has no meaning. The refusals of R219 are next states with a `Response.refused`, not this. -/
inductive Refusal where
  /-- Raised by an arm of `exec` whose instruction has no meaning yet; safe (the run stops). No arm raises it now. -/
  | notModelled (mnemonic : String)
  deriving DecidableEq, Repr

end Sys2Proof.Machine
end

