-- ==== Sys2Proof/Machine/Operands.lean ====
section
/-! DEFINITION. The operand forms: character codes, hex digits and pairs, and the views of a unit the accessors read
(spec/00_scope.md R14, spec/20_memory.md R53 to R59, spec/30_encoding.md R81 to R89, spec/40_decoder.md R117 to R119). -/

namespace Sys2Proof.Machine

/-! ### Characters (R14) -/

/-- `':'` -/
def charColon : Byte := 0x3A#8

/-- `'\r'` -/
def charCr : Byte := 0x0D#8

/-- `'\n'`, the default delimiter (R10). -/
def charLf : Byte := 0x0A#8

/-! ### Hex digits and pairs (R54, R85, R86) -/

/-- `HexChar` (R85). -/
def hexChar (c : HexCase) (v : BitVec 4) : Byte :=
  if v ≤ 9#4 then 0x30#8 + v.setWidth 8
  else
    match c with
    | .upper => 0x41#8 + (v.setWidth 8 - 10#8)
    | .lower => 0x61#8 + (v.setWidth 8 - 10#8)

/-- The two characters of a byte, high nibble first (R54). -/
def hexPair (c : HexCase) (b : Byte) : List Byte :=
  [hexChar c (b.extractLsb' 4 4), hexChar c (b.extractLsb' 0 4)]

/-- `Hex` (R85). -/
def hexEncode (c : HexCase) (s : List Byte) : List Byte :=
  s.flatMap (hexPair c)

/-- `HexVal` (R86): the value of a hex digit of either case, `none` for a byte that is "not a valid hex digit". -/
def hexVal (c : Byte) : Option (BitVec 4) :=
  if 0x30#8 ≤ c ∧ c ≤ 0x39#8 then some ((c - 0x30#8).setWidth 4)
  else if 0x41#8 ≤ c ∧ c ≤ 0x46#8 then some ((c - 0x41#8 + 10#8).setWidth 4)
  else if 0x61#8 ≤ c ∧ c ≤ 0x66#8 then some ((c - 0x61#8 + 10#8).setWidth 4)
  else none

/-- `IsHex` (R86). -/
def isHex (c : Byte) : Bool := (hexVal c).isSome

/-- The digit values of the longest prefix made only of hex digits (R118). -/
def hexPrefix : List Byte → List (BitVec 4)
  | [] => []
  | c :: rest =>
    match hexVal c with
    | some d => d :: hexPrefix rest
    | none => []

/-- The bytes of the whole pairs, each `d0 * 16 + d1`; a last unpaired digit yields nothing (R118). -/
def pairNibbles : List (BitVec 4) → List Byte
  | d0 :: d1 :: rest => (d0 ++ d1) :: pairNibbles rest
  | [_] => []
  | [] => []

/-- `HexPrefixDecode` (R118; notes/assumptions/5). -/
def hexPrefixDecode (t : List Byte) : List Byte :=
  pairNibbles (hexPrefix t)

/-! ### Views of a unit (R117, R119, R24) -/

/-- `Interior` (R117): all but the first byte and the last two, by position; empty for fewer than three bytes. -/
def asciiInterior (raw : List Byte) : List Byte :=
  if 3 ≤ raw.length then (raw.drop 1).take (raw.length - 3) else []

/-- `Payload` (R119). -/
def payload : Variant → List Byte → List Byte
  | .rtu, raw => raw
  | .ascii, raw => hexPrefixDecode (asciiInterior raw)

/-- `W`, the trailer width in bytes (spec/00_scope.md R10). -/
def trailerWidth : Variant → Nat
  | .ascii => 1
  | .rtu => 2

/-- The payload bytes `q` of a unit: a derived view, not state (spec/10_state.md R23). -/
def SerialAdu.payload (u : SerialAdu) : List Byte :=
  Sys2Proof.Machine.payload u.variant u.raw

/-- The logical size `s = p − W` (spec/10_state.md R24); read only where the admission test has `p ≥ W`. -/
def SerialAdu.logicalSize (u : SerialAdu) : Nat :=
  u.payload.length - trailerWidth u.variant

/-- `q[0:s]`, the data region (spec/40_decoder.md R123). -/
def SerialAdu.dataRegion (u : SerialAdu) : List Byte :=
  u.payload.take u.logicalSize

/-- `q[i]`, for an index the admission test has put in range (spec/40_decoder.md R130). -/
def SerialAdu.payloadByte (u : SerialAdu) (i : Nat) : Byte :=
  u.payload.getD i 0

/-- The LRC trailer `q[p-1]` (spec/30_encoding.md R88). -/
def SerialAdu.trailer8 (u : SerialAdu) : Byte :=
  u.payloadByte (u.payload.length - 1)

/-- The CRC trailer `q[p-2] * 256 + q[p-1]` (spec/30_encoding.md R87). -/
def SerialAdu.trailer16 (u : SerialAdu) : Half :=
  u.payloadByte (u.payload.length - 2) ++ u.payloadByte (u.payload.length - 1)

/-- The PDU of the unit, `(q[1], q[2:s])` (spec/40_decoder.md R125). -/
def SerialAdu.pduOf (u : SerialAdu) : Pdu :=
  { fc := u.payloadByte 1, pdata := u.dataRegion.drop 2 }

/-- The embedded checksum as CHECKSUM returns it: 8 bits for `Ascii`, 16 for `Rtu` (spec/40_decoder.md R126). -/
def SerialAdu.checksumResponse (u : SerialAdu) : Response :=
  match u.variant with
  | .ascii => .byte u.trailer8
  | .rtu => .half u.trailer16

end Sys2Proof.Machine
end

