-- ==== Sys2Proof/Machine/Flags.lean ====
section
/-! DEFINITION. The block's three boolean results (spec/10_state.md R31) and the numeric code of the fault record (R29).
No operation stores a condition code. -/

namespace Sys2Proof.Machine

/-- R31 (a): the payload bytes are empty (spec/40_decoder.md R121). -/
def SerialAdu.emptyFlag (u : SerialAdu) : Bool :=
  u.payload.isEmpty

/-- R31 (b): the checksum recomputed over the data region equals the trailer (spec/41_checksum.md R163). The variant
alone decides which generator is used (R165). -/
def SerialAdu.matchesFlag (u : SerialAdu) : Bool :=
  match u.variant with
  | .ascii => lrc u.dataRegion == u.trailer8
  | .rtu => crcOut u.dataRegion == u.trailer16

/-- R31 (c): a fault is recorded, the only stored flag. -/
def State.faultFlag (s : State) : Bool := s.fault.isSome

/-- The 3-bit code of the fault record (spec/60_exceptions.md R211). -/
def faultCode : Option FaultCause → BitVec 3
  | none => 0#3
  | some .noUnit => 1#3
  | some .emptyUnit => 2#3
  | some .shortUnit => 3#3
  | some .noAddress => 4#3
  | some .noFunctionCode => 5#3

end Sys2Proof.Machine
end

