-- ==== Sys2Proof/Machine/Ops.lean ====
section
/-! DEFINITION. The named operations over the state: how a command answers, faults or is refused, the common admission
tests, reset, and taking the next host event. Every meaning is built from these. -/

namespace Sys2Proof.Machine

/-! ### How a command ends -/

/-- The command answers with `r` and changes nothing of the block. -/
def State.respond (s : State) (r : Response) : State :=
  { s with response := some r }

/-- The command is refused: no value, no change of the block, the fault record as it was (spec/60_exceptions.md R219,
R214; notes/assumptions/1). -/
def State.refuse (s : State) (r : Rejection) : State :=
  { s with response := some (.refused r) }

/-- Fault entry (spec/60_exceptions.md R213): no value, `fault <- cause`, the unit as it was, nothing else. There is no
handler, no saved state and no return (R214): only `State.afterReset` clears the record. -/
def State.takeFault (s : State) (c : FaultCause) : State :=
  { s with fault := some c, response := some (.fault c) }

/-- Reset applied to a running instance (spec/70_reset_and_hazards.md R240, R241): the reset state, with the instance's
own parameters (R242) and whatever the host has still to issue. -/
def State.afterReset (s : State) : State :=
  { State.reset with params := s.params, inbox := s.inbox }

/-- `unit <- (loaded = 1, variant, raw)`, all three fields at once (spec/40_decoder.md R120). -/
def State.loadUnit (s : State) (v : Variant) (raw : List Byte) : State :=
  { s with unit := some { variant := v, raw := raw }, response := some .loaded }

/-! ### Admission -/

/-- Tests (3) to (6) of spec/40_decoder.md R129, in their order, each with the cause it raises. -/
def unitTests : List (FaultCause × (SerialAdu → Bool)) :=
  [ (.emptyUnit, fun u => u.payload.length == 0),
    (.shortUnit, fun u => decide (u.payload.length < trailerWidth u.variant)),
    (.noAddress, fun u => u.logicalSize == 0),
    (.noFunctionCode, fun u => u.logicalSize == 1) ]

/-- The cause the first `n` of those tests raise: the first that holds, if any (R129, spec/60_exceptions.md R215). -/
def firstCause (n : Nat) (u : SerialAdu) : Option FaultCause :=
  ((unitTests.take n).find? (fun t => t.2 u)).map (·.1)

/-- An operation that reads the unit (R129): (1) refused if a fault is recorded, (2) `NoUnit` if none is loaded, then the
first `n` unit tests; admitted, it answers with `f` of the unit. -/
def State.withUnit (s : State) (n : Nat) (f : SerialAdu → Response) : State :=
  match s.fault with
  | some _ => s.refuse .faulted
  | none =>
    match s.unit with
    | none => s.takeFault .noUnit
    | some u =>
      match firstCause n u with
      | some c => s.takeFault c
      | none => s.respond (f u)

/-- An operation that needs no unit and carries `len` bytes of operand or response: refused if a fault is recorded
(R214), refused if `len` is over `MAX_LEN` (R219), else `k`. -/
def State.withLength (s : State) (len : Nat) (k : State → State) : State :=
  match s.fault with
  | some _ => s.refuse .faulted
  | none => if s.params.maxLen < len then s.refuse .tooLong else k s

/-! ### Host events -/

/-- The state with the oldest host event taken. -/
def State.withInbox (s : State) (rest : List HostEvent) : State :=
  { s with inbox := rest }

/-- The state in which the host issues command `c` next. -/
def State.issueFirst (s : State) (c : Command) : State :=
  { s with inbox := .command c :: s.inbox }

end Sys2Proof.Machine
end

