-- ==== Sys2Proof/Machine/ChecksumEngine.lean ====
section
/-! DEFINITION. The checksum engine's operations (spec/41_checksum.md): LRC8, CRC16, MATCHES. -/

namespace Sys2Proof.Machine

/-- LRC8 (R150): needs no unit, never faults. -/
def execLrc8 (bytes : List Byte) (s : State) : Host.Outcome State Fault Refusal :=
  .next (s.withLength bytes.length (fun s => s.respond (.byte (lrc bytes))))

/-- CRC16 (R154): the response is the value after the byte swap. -/
def execCrc16 (bytes : List Byte) (s : State) : Host.Outcome State Fault Refusal :=
  .next (s.withLength bytes.length (fun s => s.respond (.half (crcOut bytes))))

/-- MATCHES (R163): steps (1) to (4) of R129; a mismatch is the response 0, not a fault (spec/60_exceptions.md R216). -/
def execMatches (s : State) : Host.Outcome State Fault Refusal :=
  .next (s.withUnit 2 (fun u => .bit u.matchesFlag))

end Sys2Proof.Machine
end

