-- ==== Sys2Proof/Machine/FrameDecoder.lean ====
section
/-! DEFINITION. The frame decoder and its accessors (spec/40_decoder.md): DECODE, EMPTY, SIZE, DATA, SERVER_ADDRESS, PDU,
CHECKSUM, RAW_SIZE, RAW_DATA. -/

namespace Sys2Proof.Machine

/-- DECODE (R120): the unit register takes the variant and the raw bytes; it never faults. -/
def execDecode (v : Variant) (bytes : List Byte) (s : State) : Host.Outcome State Fault Refusal :=
  .next (s.withLength bytes.length (fun s => s.loadUnit v bytes))

/-- EMPTY (R121): steps (1) and (2). -/
def execEmpty (s : State) : Host.Outcome State Fault Refusal :=
  .next (s.withUnit 0 (fun u => .bit u.emptyFlag))

/-- SIZE (R122): steps (1) to (4). -/
def execSize (s : State) : Host.Outcome State Fault Refusal :=
  .next (s.withUnit 2 (fun u => .number u.logicalSize))

/-- DATA (R123): steps (1) to (4). -/
def execData (s : State) : Host.Outcome State Fault Refusal :=
  .next (s.withUnit 2 (fun u => .bytes u.dataRegion))

/-- SERVER_ADDRESS (R124): steps (1) to (5); `q[0]`. -/
def execServerAddress (s : State) : Host.Outcome State Fault Refusal :=
  .next (s.withUnit 3 (fun u => .byte (u.payloadByte 0)))

/-- PDU (R125): steps (1) to (6). -/
def execPdu (s : State) : Host.Outcome State Fault Refusal :=
  .next (s.withUnit 4 (fun u => .pdu u.pduOf))

/-- CHECKSUM (R126): steps (1) to (4). -/
def execChecksum (s : State) : Host.Outcome State Fault Refusal :=
  .next (s.withUnit 2 (fun u => u.checksumResponse))

/-- RAW_SIZE (R127): steps (1) and (2). -/
def execRawSize (s : State) : Host.Outcome State Fault Refusal :=
  .next (s.withUnit 0 (fun u => .number u.raw.length))

/-- RAW_DATA (R128): steps (1) and (2). -/
def execRawData (s : State) : Host.Outcome State Fault Refusal :=
  .next (s.withUnit 0 (fun u => .bytes u.raw))

end Sys2Proof.Machine
end

