-- ==== Sys2Proof/Machine/FrameEncoder.lean ====
section
/-! DEFINITION. The frame encoder (spec/42_encoder.md): ENCODE. -/

namespace Sys2Proof.Machine

/-- The data region `[addr] ++ [fc] ++ pdata` (R191, spec/30_encoding.md R82). -/
def frameBody (addr : Byte) (p : Pdu) : List Byte :=
  [addr] ++ [p.fc] ++ p.pdata

/-- The frame on the wire (R190): `Rtu` R192, `Ascii` R193. For `Rtu` the delimiter is ignored. -/
def encodeFrame (c : HexCase) (v : Variant) (addr : Byte) (p : Pdu) (delim : Byte) : List Byte :=
  match v with
  | .rtu => frameBody addr p ++ crcTrailer (crcOut (frameBody addr p))
  | .ascii => [charColon] ++ hexEncode c (frameBody addr p ++ [lrc (frameBody addr p)]) ++ [charCr, delim]

/-- ENCODE (R190): reads no unit, writes none, never faults; refused if the response would be longer than `MAX_LEN`. -/
def execEncode (v : Variant) (addr : Byte) (p : Pdu) (delim : Byte) (s : State) : Host.Outcome State Fault Refusal :=
  .next (s.withLength (encodeFrame s.params.hexCase v addr p delim).length
    (fun s => s.respond (.bytes (encodeFrame s.params.hexCase v addr p delim))))

end Sys2Proof.Machine
end

