-- ==== Sys2Proof/Machine/Dispatch.lean ====
section
/-! DEFINITION. One arm per operation: the meaning each constructor of `Instr` has. -/

namespace Sys2Proof.Machine

/-- The effect of one operation on an instance (spec/30_encoding.md R95). -/
def exec (i : Instr) (s : State) : Host.Outcome State Fault Refusal :=
  match i with
  | .decode v bytes => Sys2Proof.Machine.execDecode v bytes s
  | .empty => Sys2Proof.Machine.execEmpty s
  | .size => Sys2Proof.Machine.execSize s
  | .data => Sys2Proof.Machine.execData s
  | .serverAddress => Sys2Proof.Machine.execServerAddress s
  | .pdu => Sys2Proof.Machine.execPdu s
  | .checksum => Sys2Proof.Machine.execChecksum s
  | .rawSize => Sys2Proof.Machine.execRawSize s
  | .rawData => Sys2Proof.Machine.execRawData s
  | .lrc8 bytes => Sys2Proof.Machine.execLrc8 bytes s
  | .crc16 bytes => Sys2Proof.Machine.execCrc16 bytes s
  | .matchesTrailer => Sys2Proof.Machine.execMatches s
  | .encode v addr p delim => Sys2Proof.Machine.execEncode v addr p delim s

end Sys2Proof.Machine
end

