-- ==== Sys2Proof/Machine/Step.lean ====
section
/-! DEFINITION. One step: the block performs the oldest thing the host has issued, as one indivisible step
(spec/20_memory.md R60, R61). -/

namespace Sys2Proof.Machine

/-- One step. Nothing issued: the block is idle and keeps its state (spec/60_exceptions.md R226). A reset: R240. A
command: the operation it selects (spec/30_encoding.md R96), or the refusal of a reserved code (R97). -/
def step (s : State) : Host.Outcome State Fault Refusal :=
  match s.inbox with
  | [] => .next s
  | .reset :: rest => .next (s.withInbox rest).afterReset
  | .command c :: rest =>
    match decode c with
    | .ok i => exec i (s.withInbox rest)
    | .error _ => .next ((s.withInbox rest).refuse .reservedOp)

/-- `s` with the command of a table word issued ahead of everything else, its typed operands zero or empty: the very next
step performs it (notes/assumptions/2). -/
def State.withFetchWord (s : State) (nbits w : Nat) : State :=
  s.issueFirst (commandOfTableBits nbits w)

end Sys2Proof.Machine
end

