-- ==== Sys2Proof/Machine/Instances.lean ====
section
/-! DEFINITION. Several instances of the block (spec/10_state.md R35, spec/60_exceptions.md R224): each a State of its
own, nothing shared. -/

namespace Sys2Proof.Machine

/-- A bank of instances. -/
abbrev Bank := List State

/-- One step of instance `n`; the other instances are no part of it. A stop of the instance leaves the bank as it was. -/
def Bank.stepAt (b : Bank) (n : Nat) : Bank :=
  match b[n]? with
  | none => b
  | some s =>
    match step s with
    | .next t => b.set n t
    | .fault _ => b
    | .refused _ => b

end Sys2Proof.Machine
end

