-- ==== Sys2Proof/Machine/Serial.lean ====
section
/-! DEFINITION. The generators as serial machines on their working registers (spec/10_state.md R28, R30). The registers
live inside one operation and are not architectural state, so they stand here and not in `State`; the statements say that
running them gives the functions of Machine/Checksum.lean. -/

namespace Sys2Proof.Machine

/-- The working registers of the CRC-16 generator: `crc`, the byte index and the bit index `k` (R28, R29). -/
structure CrcWork where
  crc : Half
  byteIndex : Nat
  k : BitVec 3
  deriving DecidableEq, Repr

/-- The working registers of the LRC-8 generator: `sum` and the byte index (R28). -/
structure LrcWork where
  sum : Byte
  byteIndex : Nat
  deriving DecidableEq, Repr

/-- The state a CRC computation starts in (spec/41_checksum.md R155). -/
def crcWorkInit : CrcWork := { crc := crcInit, byteIndex := 0, k := 0 }

/-- One bit step over the range `bytes`: bit `k` of the current byte, then the indices advance in the order of R157.
Past the last byte nothing is left to do. -/
def crcWorkStep (bytes : List Byte) (w : CrcWork) : CrcWork :=
  match bytes[w.byteIndex]? with
  | none => w
  | some c =>
    { crc := crcBit w.crc (c.getLsbD w.k.toNat),
      byteIndex := if w.k = 7#3 then w.byteIndex + 1 else w.byteIndex,
      k := w.k + 1 }

/-- `n` bit steps. -/
def crcWorkRun (bytes : List Byte) : Nat → CrcWork → CrcWork
  | 0, w => w
  | n + 1, w => crcWorkRun bytes n (crcWorkStep bytes w)

/-- The state an LRC computation starts in (spec/41_checksum.md R151). -/
def lrcWorkInit : LrcWork := { sum := lrcInit, byteIndex := 0 }

/-- One byte step over the range `bytes` (R151). -/
def lrcWorkStep (bytes : List Byte) (w : LrcWork) : LrcWork :=
  match bytes[w.byteIndex]? with
  | none => w
  | some c => { sum := lrcByte w.sum c, byteIndex := w.byteIndex + 1 }

/-- `n` byte steps. -/
def lrcWorkRun (bytes : List Byte) : Nat → LrcWork → LrcWork
  | 0, w => w
  | n + 1, w => lrcWorkRun bytes n (lrcWorkStep bytes w)

/-! ### The right-shifting form (R160 (b)), for cross-checking only -/

/-- One bit of the right-shifting form: shift right, XOR 0xA001 if the bit shifted out is 1. -/
def crcShiftRightBit (r : Half) : Half :=
  if r.getLsbD 0 then (r >>> 1) ^^^ 0xA001#16 else r >>> 1

/-- One byte of it: XOR the byte in, then eight bits. -/
def crcShiftRightByte (r : Half) (c : Byte) : Half :=
  (List.range 8).foldl (fun r _ => crcShiftRightBit r) (r ^^^ c.setWidth 16)

/-- The whole range. -/
def crcShiftRight (bytes : List Byte) : Half := bytes.foldl crcShiftRightByte crcInit

end Sys2Proof.Machine
end

