-- ==== Sys2Proof/Safety.lean ====
section
/-! DEFINITION. What counts as a good state and a safe operation, in the terms claims use: the invariant every step keeps,
the host's duties (spec/70_reset_and_hazards.md R244), and runs of the block. -/

namespace Sys2Proof.Machine

/-- No fault is recorded: "A state with a fault recorded is never a good final state" (spec/60_exceptions.md R214). -/
def State.good (s : State) : Prop := s.fault = none

/-- The raw bytes of a held unit are no longer than `MAX_LEN`: the legal values of `unit.raw` (spec/10_state.md R32). -/
def State.rawFits (s : State) : Prop :=
  ∀ u, s.unit = some u → u.raw.length ≤ s.params.maxLen

/-- What a recorded cause says of the unit register (spec/60_exceptions.md R211). -/
def FaultCause.explains : FaultCause → Option SerialAdu → Prop
  | .noUnit, u => u = none
  | .emptyUnit, u => ∃ a, u = some a ∧ a.payload.length = 0
  | .shortUnit, u => ∃ a, u = some a ∧ 0 < a.payload.length ∧ a.payload.length < trailerWidth a.variant
  | .noAddress, u => ∃ a, u = some a ∧ a.payload.length = trailerWidth a.variant
  | .noFunctionCode, u => ∃ a, u = some a ∧ a.payload.length = trailerWidth a.variant + 1

/-- The recorded cause is true of the unit the block still holds (R213: the unit register is left exactly as it was). -/
def State.faultExplained (s : State) : Prop :=
  ∀ c, s.fault = some c → c.explains s.unit

/-- The length of the byte sequence a response carries: the PDU's data for PDU, 0 for a response that carries none. -/
def Response.sequenceLength : Response → Nat
  | .bytes bs => bs.length
  | .pdu p => p.pdata.length
  | .loaded | .bit _ | .number _ | .byte _ | .half _ | .fault _ | .refused _ => 0

/-- No byte sequence the host got back is longer than `MAX_LEN` (spec/60_exceptions.md R219). -/
def State.responseFits (s : State) : Prop :=
  ∀ r, s.response = some r → r.sequenceLength ≤ s.params.maxLen

/-- The invariant of the block. -/
def State.Inv (s : State) : Prop :=
  s.rawFits ∧ s.faultExplained ∧ s.responseFits

/-- `n` steps, stopping at the first fault or refusal: what `Host.Core.run` does, over `step` itself. -/
def run : Nat → State → Host.Outcome State Fault Refusal
  | 0, s => .next s
  | n + 1, s =>
    match step s with
    | .next t => run n t
    | .fault r => .fault r
    | .refused r => .refused r

/-- The nine operations that read the unit register (spec/30_encoding.md R95). -/
def unitReaders : List Instr :=
  [.empty, .size, .data, .serverAddress, .pdu, .checksum, .rawSize, .rawData, .matchesTrailer]

/-- The three operations that touch no state (spec/00_scope.md section 7). -/
def isPure : Instr → Bool
  | .lrc8 _ | .crc16 _ | .encode _ _ _ _ => true
  | .decode _ _ | .empty | .size | .data | .serverAddress | .pdu | .checksum | .rawSize | .rawData
  | .matchesTrailer => false

/-- Which operation can raise which cause: the table of spec/60_exceptions.md R212. -/
def mayRaise : Instr → FaultCause → Bool
  | .empty, c | .rawSize, c | .rawData, c => c == .noUnit
  | .size, c | .data, c | .checksum, c | .matchesTrailer, c => c == .noUnit || c == .emptyUnit || c == .shortUnit
  | .serverAddress, c => !(c == .noFunctionCode)
  | .pdu, _ => true
  | .decode _ _, _ | .lrc8 _, _ | .crc16 _, _ | .encode _ _ _ _, _ => false

/-- `i` is refused while a fault is recorded: no value, no change of the block (spec/60_exceptions.md R214). -/
def refusesWhenFaulted (i : Instr) (s : State) : Prop :=
  ∀ c, s.fault = some c → exec i s = .next { s with response := some (.refused .faulted) }

/-- `i` raises `NoUnit` where no unit is loaded (spec/40_decoder.md R129 (2)). -/
def faultsWithoutUnit (i : Instr) (s : State) : Prop :=
  s.fault = none → s.unit = none →
    exec i s = .next { s with fault := some .noUnit, response := some (.fault .noUnit) }

/-- `i` raises `EmptyUnit` on an empty payload and `ShortUnit` on one shorter than the trailer (R129 (3), (4)). -/
def faultsOnShortPayload (i : Instr) (s : State) : Prop :=
  ∀ u, s.fault = none → s.unit = some u →
    (u.payload = [] →
      exec i s = .next { s with fault := some .emptyUnit, response := some (.fault .emptyUnit) }) ∧
    (u.payload ≠ [] → u.payload.length < trailerWidth u.variant →
      exec i s = .next { s with fault := some .shortUnit, response := some (.fault .shortUnit) })

/-- The unit's payload is `d ++ trailer`: `d` the data region, `trailer` the last `W` payload bytes
(spec/10_state.md R25, spec/20_memory.md R59). -/
def SerialAdu.splitsAs (u : SerialAdu) (d trailer : List Byte) : Prop :=
  u.payload = d ++ trailer ∧ trailer.length = trailerWidth u.variant

/-- A frame is well formed for its variant, hex case and delimiter (spec/42_encoder.md R196). -/
def wellFormedFrame (c : HexCase) (delim : Byte) : Variant → List Byte → Prop
  | .rtu, r => 4 ≤ r.length ∧ (SerialAdu.matchesFlag { variant := .rtu, raw := r }) = true
  | .ascii, r =>
    9 ≤ r.length ∧ r.length % 2 = 1 ∧ r[0]? = some charColon ∧ r[r.length - 2]? = some charCr ∧
      r[r.length - 1]? = some delim ∧
      (∀ x ∈ asciiInterior r, ∃ v, x = hexChar c v) ∧
      (SerialAdu.matchesFlag { variant := .ascii, raw := r }) = true

end Sys2Proof.Machine
end

