-- ==== Sys2Proof/WellFormed.lean ====
section
/-! DEFINITION. Which operations an instance with a given `MAX_LEN` admits by length (spec/20_memory.md R52,
spec/60_exceptions.md R219). Every other operand is typed, so no other value can be ill-formed (spec/30_encoding.md R98).
The machine makes the same test on the bytes themselves (Machine/Ops.lean `withLength`); Laws/WellFormed.lean proves that
the two agree. -/

namespace Sys2Proof

/-- The length of an ENCODE response: `len(pdata) + 4` for `Rtu` (spec/42_encoder.md R192), `2 * len(pdata) + 9` for
`Ascii` (R193). -/
def encodedLength : Variant → Pdu → Nat
  | .rtu, p => p.pdata.length + 4
  | .ascii, p => 2 * p.pdata.length + 9

/-- No byte-sequence operand and no response of the operation is longer than `maxLen` (R219). -/
def Instr.wellFormed (maxLen : Nat) : Instr → Bool
  | .decode _ bytes => bytes.length ≤ maxLen
  | .lrc8 bytes => bytes.length ≤ maxLen
  | .crc16 bytes => bytes.length ≤ maxLen
  | .encode v _ p _ => encodedLength v p ≤ maxLen
  | .empty | .size | .data | .serverAddress | .pdu | .checksum | .rawSize | .rawData | .matchesTrailer => true

end Sys2Proof
end

