-- ==== Sys2Proof/Certificates/Slice0/Obligations.lean ====
section
/-! DEFINITION. The statements for the provers. Each docstring names the rule of spec/ the statement formalises. Where a
statement speaks of `response := some (.refused …)` or `some (.fault …)`, that the host sees the outcome in this field is
the model's form (notes/assumptions/1); what happens to the block is the rule's. -/

open Sys2Proof Sys2Proof.Machine

/-! ### The step, reset and the inbox -/

/-- R60, R61: with a command issued first, one step performs the operation it selects on the state as it was when issued;
so it does for a table word given to `withFetchWord`. The inbox is the model's (notes/assumptions/2). -/
def Obligations.StepRunsTheDecodedCommand : Prop :=
  (∀ (s : State) (c : Command) (rest : List HostEvent) (i : Instr), s.inbox = .command c :: rest → decode c = .ok i →
    step s = exec i { s with inbox := rest }) ∧
  (∀ (s : State) (nbits w : Nat) (i : Instr), decodeTableWord nbits w = some i →
    step (s.withFetchWord nbits w) = exec i s)

/-- R97 (the value the host sees for a refusal: notes/assumptions/1): the select codes 0xD, 0xE, 0xF are refused
with no state change, and no code below them is reserved.
The reserved codes are the spec's own choice (R97, decision D3).
That the reason reported is reservedOp where a fault is recorded too is the model's choice (notes/assumptions/8). -/
def Obligations.ReservedCodesAreRefusedWithoutEffect : Prop :=
  ∀ (s : State) (c : Command) (rest : List HostEvent), s.inbox = .command c :: rest →
    ((13 ≤ c.op.toNat → decode c = .error (.reservedOp c.op) ∧
      step s = .next { s with inbox := rest, response := some (.refused .reservedOp) }) ∧
    (c.op.toNat < 13 → ∃ i, decode c = .ok i))

/-- R226: between operations the block is idle and keeps its state.
That a step with nothing issued is such an idle moment is the model's reading of R226 (notes/assumptions/12, DEDUCED),
and the inbox is the model's own field (notes/assumptions/2). -/
def Obligations.IdleBlockKeepsItsState : Prop :=
  ∀ s : State, s.inbox = [] → step s = .next s

/-- R240, R34: the reset state holds no unit and no fault; there the nine readers fault with `NoUnit`, and DECODE and the
three pure operations work at once (if within `MAX_LEN`).
NoUnit is the spec's own choice (R129, decision D5). -/
def Obligations.ResetStateAcceptsEveryOperation : Prop :=
  State.reset.loaded = false ∧ faultCode State.reset.fault = 0#3 ∧
  (∀ i ∈ unitReaders, exec i State.reset =
    .next { State.reset with fault := some .noUnit, response := some (.fault .noUnit) }) ∧
  (∀ i : Instr, i.wellFormed State.reset.params.maxLen = true → i ∉ unitReaders →
    ∃ t, exec i State.reset = .next t ∧ t.fault = none ∧ ∀ r, t.response ≠ some (.refused r))

/-- R241: reset, applied in any state, clears the fault record and unloads the unit; R242: the instance's parameters stay.
That what the host has still to issue stays, and that no response is left, is the model's form
(notes/assumptions/2, notes/assumptions/4). -/
def Obligations.ResetClearsFaultAndUnit : Prop :=
  ∀ (s : State) (rest : List HostEvent), s.inbox = .reset :: rest →
    step s = .next { unit := none, fault := none, params := s.params, inbox := rest, response := none }

/-- R254: every operation terminates; in the model every run of every length answers a next state. -/
def Obligations.EveryRunAnswersANextState : Prop :=
  ∀ (n : Nat) (s : State), ∃ t, run n s = .next t

/-- The reset state meets the invariant. -/
def Obligations.ResetStateMeetsTheInvariant : Prop :=
  State.reset.Inv

/-- The invariant every step keeps, from every state that meets it: a held unit fits `MAX_LEN` (R32), the recorded cause
is true of the unit still held (R211, R213), and no byte sequence given back is longer than `MAX_LEN` (R219). -/
def Obligations.EveryStepKeepsTheInvariant : Prop :=
  ∀ s t : State, s.Inv → step s = .next t → t.Inv

/-- R21: only DECODE writes the unit register, all fields at once; R241: only reset unloads a unit. -/
def Obligations.OnlyDecodeAndResetWriteTheUnit : Prop :=
  ∀ s t : State, step s = .next t → t.unit ≠ s.unit →
    (∃ rest, s.inbox = .reset :: rest ∧ t.unit = none) ∨
    (∃ c rest v bytes, s.inbox = .command c :: rest ∧ decode c = .ok (.decode v bytes) ∧
      t.unit = some { variant := v, raw := bytes })

/-- R27: the fault record is set by fault entry and by nothing else, cleared by reset and by nothing else.
The sticky record is the spec's own choice (R27, decision D7). -/
def Obligations.OnlyFaultEntryAndResetWriteTheFault : Prop :=
  ∀ s t : State, step s = .next t → t.fault ≠ s.fault →
    (∃ rest, s.inbox = .reset :: rest ∧ t.fault = none) ∨
    (∃ cmd rest i c, s.inbox = .command cmd :: rest ∧ decode cmd = .ok i ∧ mayRaise i c = true ∧ s.fault = none ∧
      t = { s with inbox := rest, fault := some c, response := some (.fault c) })

/-- R214: while a fault is recorded every operation is refused, DECODE and the pure ones included, and changes nothing.
That a recorded fault is the reason where the length is over MAX_LEN too is the model's choice (notes/assumptions/8). -/
def Obligations.FaultedBlockRefusesEveryOperation : Prop :=
  ∀ (s : State) (c : FaultCause) (i : Instr), s.fault = some c →
    exec i s = .next { s with response := some (.refused .faulted) }

/-- R214, R252: a fault is final. However many steps are run, as long as the host applies no reset the cause stays
recorded, the unit stays as it was, and every command is refused.
The sticky record is the spec's own choice (R214, decision D7). -/
def Obligations.FaultIsFinalUntilReset : Prop :=
  ∀ (n : Nat) (s t : State) (c : FaultCause), s.fault = some c → HostEvent.reset ∉ s.inbox.take n →
    run n s = .next t →
    t.fault = some c ∧ t.unit = s.unit ∧ (0 < n → s.inbox ≠ [] → ∃ r, t.response = some (.refused r))

/-- R242: `HEXCASE` and `MAX_LEN` are changed by no step of any run, reset included.
The spec marks the rule as its own choice (R242, decision D15). -/
def Obligations.ParametersNeverChange : Prop :=
  ∀ (n : Nat) (s t : State), run n s = .next t → t.params = s.params

/-- R213: fault entry is precise. The operation gives no value, the cause is recorded, nothing else changes.
The fault entry is the spec's own choice (R213, decision D7). -/
def Obligations.FaultEntryIsPrecise : Prop :=
  ∀ (i : Instr) (s t : State) (c : FaultCause), s.fault = none → exec i s = .next t → t.fault = some c →
    t = { s with fault := some c, response := some (.fault c) }

/-- R212: which operation can raise which cause, both ways: no other cause is raised, and each listed one can be.
The spec marks the rows of DATA and MATCHES as its own inference (R212).
NoUnit, ShortUnit and NoFunctionCode are the spec's own choice (R211, decisions D5, D9, D10). -/
def Obligations.CausesFollowTheTable : Prop :=
  (∀ (i : Instr) (s t : State) (c : FaultCause), s.fault = none → exec i s = .next t → t.fault = some c →
    mayRaise i c = true) ∧
  (∀ (i : Instr) (c : FaultCause), mayRaise i c = true →
    ∃ s t : State, s.fault = none ∧ exec i s = .next t ∧ t.fault = some c)

/-- R211, R215: PDU, which makes all the tests, raises a cause exactly when that cause's condition holds of the unit,
so at
most one does; and the codes of the causes.
Names, codes and three of the conditions are the spec's own choice (R211, decisions D5, D8 to D10). -/
def Obligations.CausesHoldUnderTheirConditions : Prop :=
  (∀ (s : State) (c : FaultCause), s.fault = none →
    (c.explains s.unit ↔ exec .pdu s = .next { s with fault := some c, response := some (.fault c) })) ∧
  (∀ (u : Option SerialAdu) (c d : FaultCause), c.explains u → d.explains u → c = d) ∧
  [none, some .noUnit, some .emptyUnit, some .shortUnit, some .noAddress, some .noFunctionCode].map faultCode
    = [0#3, 1#3, 2#3, 3#3, 4#3, 5#3]

/-! ### Results of the operations -/

/-- R120: DECODE, for any bytes that fit, loads the unit and changes nothing else; it is refused while a fault is recorded
or if the bytes are longer than `MAX_LEN`, and never faults.
The acknowledgement loaded and the form in which the host sees a refusal are the model's (notes/assumptions/1): R120
gives no response value.
That a recorded fault is the reason where the length is over MAX_LEN too is the model's choice (notes/assumptions/8). -/
def Obligations.DecodeLoadsTheUnit : Prop :=
  ∀ (s : State) (v : Variant) (bytes : List Byte),
    refusesWhenFaulted (.decode v bytes) s ∧
    (s.fault = none → bytes.length ≤ s.params.maxLen →
      exec (.decode v bytes) s =
        .next { s with unit := some { variant := v, raw := bytes }, response := some .loaded }) ∧
    (s.fault = none → s.params.maxLen < bytes.length →
      exec (.decode v bytes) s = .next { s with response := some (.refused .tooLong) })

/-- R121: EMPTY answers whether the payload is empty; for `Rtu` that is `n = 0`, for `Ascii` it holds when `n <= 4` and
otherwise when the first two interior bytes are not both hex digits.
The operation is the spec's own addition (R121, decision D2).
NoUnit is the spec's own choice (R129, decision D5). -/
def Obligations.EmptyAnswersWhetherThePayloadIsEmpty : Prop :=
  (∀ s : State,
    refusesWhenFaulted .empty s ∧ faultsWithoutUnit .empty s ∧
    (∀ u, s.fault = none → s.unit = some u →
      exec .empty s = .next { s with response := some (.bit (decide (u.payload = []))) })) ∧
  (∀ raw : List Byte, (payload .rtu raw = [] ↔ raw = [])) ∧
  (∀ raw : List Byte, raw.length ≤ 4 → payload .ascii raw = []) ∧
  (∀ (x a b : Byte) (rest : List Byte), 2 ≤ rest.length →
    (payload .ascii (x :: a :: b :: rest) = [] ↔ ¬ (isHex a = true ∧ isHex b = true)))

/-- R122: SIZE answers the payload length less the trailer's, 1 byte for `Ascii` and 2 for `Rtu`.
ShortUnit is the spec's own choice (R122, decision D9).
NoUnit is the spec's own choice (R129, decision D5). -/
def Obligations.SizeAnswersTheLogicalSize : Prop :=
  (trailerWidth .ascii = 1 ∧ trailerWidth .rtu = 2) ∧
  ∀ s : State,
    refusesWhenFaulted .size s ∧ faultsWithoutUnit .size s ∧ faultsOnShortPayload .size s ∧
    (∀ u, s.fault = none → s.unit = some u → trailerWidth u.variant ≤ u.payload.length →
      exec .size s = .next { s with response := some (.number (u.payload.length - trailerWidth u.variant)) })

/-- R123: DATA answers the leading `s` payload bytes, never a trailer byte.
The spec marks its faults as inferred from those of SIZE (R123).
NoUnit and ShortUnit are the spec's own choice (R129, decisions D5, D9). -/
def Obligations.DataAnswersTheDataRegion : Prop :=
  ∀ s : State,
    refusesWhenFaulted .data s ∧ faultsWithoutUnit .data s ∧ faultsOnShortPayload .data s ∧
    (∀ u d trailer, s.fault = none → s.unit = some u → u.splitsAs d trailer →
      exec .data s = .next { s with response := some (.bytes d) })

/-- R124: SERVER_ADDRESS answers the first byte of the data region, `NoAddress` where it is empty.
That the host sees a refusal or a fault in the response field is the model's form (notes/assumptions/1).
NoUnit and ShortUnit are the spec's own choice (R129, decisions D5, D9). -/
def Obligations.ServerAddressAnswersTheFirstByte : Prop :=
  ∀ s : State,
    refusesWhenFaulted .serverAddress s ∧ faultsWithoutUnit .serverAddress s ∧
    faultsOnShortPayload .serverAddress s ∧
    (∀ u trailer, s.fault = none → s.unit = some u → u.splitsAs [] trailer →
      exec .serverAddress s = .next { s with fault := some .noAddress, response := some (.fault .noAddress) }) ∧
    (∀ u a d trailer, s.fault = none → s.unit = some u → u.splitsAs (a :: d) trailer →
      exec .serverAddress s = .next { s with response := some (.byte a) })

/-- R125: PDU answers byte 1 of the data region as function code and the rest as PDU data; `NoAddress` where the region is
empty, `NoFunctionCode` where it is one byte.
NoFunctionCode is the spec's own choice (R125, decision D10).
NoUnit and ShortUnit are the spec's own choice (R129, decisions D5, D9). -/
def Obligations.PduAnswersFunctionCodeAndData : Prop :=
  ∀ s : State,
    refusesWhenFaulted .pdu s ∧ faultsWithoutUnit .pdu s ∧ faultsOnShortPayload .pdu s ∧
    (∀ u trailer, s.fault = none → s.unit = some u → u.splitsAs [] trailer →
      exec .pdu s = .next { s with fault := some .noAddress, response := some (.fault .noAddress) }) ∧
    (∀ u a trailer, s.fault = none → s.unit = some u → u.splitsAs [a] trailer →
      exec .pdu s = .next { s with fault := some .noFunctionCode, response := some (.fault .noFunctionCode) }) ∧
    (∀ u a fc pdata trailer, s.fault = none → s.unit = some u → u.splitsAs (a :: fc :: pdata) trailer →
      exec .pdu s = .next { s with response := some (.pdu { fc := fc, pdata := pdata }) })

/-- R126, R87, R88: CHECKSUM answers the trailer, 8 bits for `Ascii`, 16 bits with the first byte high for `Rtu`.
The accessor's contract is the spec's own choice (R126, decision D2).
NoUnit and ShortUnit are the spec's own choice (R129, decisions D5, D9). -/
def Obligations.ChecksumAnswersTheTrailer : Prop :=
  (∀ s : State,
    refusesWhenFaulted .checksum s ∧ faultsWithoutUnit .checksum s ∧ faultsOnShortPayload .checksum s ∧
    (∀ u d x, s.fault = none → s.unit = some u → u.variant = .ascii → u.splitsAs d [x] →
      exec .checksum s = .next { s with response := some (.byte x) }) ∧
    (∀ u d x y, s.fault = none → s.unit = some u → u.variant = .rtu → u.splitsAs d [x, y] →
      exec .checksum s = .next { s with response := some (.half (x ++ y)) })) ∧
  (∀ x y : Byte, (x ++ y : Half).toNat = x.toNat * 256 + y.toNat)

/-- R127: RAW_SIZE answers the number of raw bytes, on an empty unit too.
That the host sees a refusal or a fault in the response field is the model's form (notes/assumptions/1).
NoUnit is the spec's own choice (R129, decision D5). -/
def Obligations.RawSizeAnswersTheRawLength : Prop :=
  ∀ s : State,
    refusesWhenFaulted .rawSize s ∧ faultsWithoutUnit .rawSize s ∧
    (∀ u, s.fault = none → s.unit = some u →
      exec .rawSize s = .next { s with response := some (.number u.raw.length) })

/-- R128: RAW_DATA answers every raw byte unchanged, on an empty unit too.
That the host sees a refusal or a fault in the response field is the model's form (notes/assumptions/1).
NoUnit is the spec's own choice (R129, decision D5). -/
def Obligations.RawDataAnswersTheRawBytes : Prop :=
  ∀ s : State,
    refusesWhenFaulted .rawData s ∧ faultsWithoutUnit .rawData s ∧
    (∀ u, s.fault = none → s.unit = some u →
      exec .rawData s = .next { s with response := some (.bytes u.raw) })

/-- R150: LRC8 answers the two's complement of the sum of the bytes modulo 256, needs no unit and never faults.
That the host sees a refusal in the response field is the model's form (notes/assumptions/1).
That a recorded fault is the reason where the length is over MAX_LEN too is the model's choice (notes/assumptions/8). -/
def Obligations.Lrc8AnswersTheNegatedSum : Prop :=
  ∀ (s : State) (bytes : List Byte),
    refusesWhenFaulted (.lrc8 bytes) s ∧
    (s.fault = none → s.params.maxLen < bytes.length →
      exec (.lrc8 bytes) s = .next { s with response := some (.refused .tooLong) }) ∧
    (s.fault = none → bytes.length ≤ s.params.maxLen →
      exec (.lrc8 bytes) s = .next { s with
        response := some (.byte (BitVec.ofNat 8 ((256 - (bytes.map BitVec.toNat).sum % 256) % 256))) })

/-- R154: CRC16 answers `crc_out`, the register after the bytes, reflected and byte-swapped; it needs no unit and never
faults.
That the host sees a refusal in the response field is the model's form (notes/assumptions/1).
That a recorded fault is the reason where the length is over MAX_LEN too is the model's choice (notes/assumptions/8). -/
def Obligations.Crc16AnswersTheSwappedCrc : Prop :=
  ∀ (s : State) (bytes : List Byte),
    refusesWhenFaulted (.crc16 bytes) s ∧
    (s.fault = none → s.params.maxLen < bytes.length →
      exec (.crc16 bytes) s = .next { s with response := some (.refused .tooLong) }) ∧
    (s.fault = none → bytes.length ≤ s.params.maxLen →
      exec (.crc16 bytes) s =
        .next { s with response := some (.half (swap16 (reflect16 (crcReg bytes)))) })

/-- R163: MATCHES recomputes the checksum of the variant over the data region and compares it with the trailer, byte for
byte; a mismatch is the answer 0, not a fault (R216).
That the host sees a refusal or a fault in the response field is the model's form (notes/assumptions/1).
NoUnit and ShortUnit are the spec's own choice (R129, decisions D5, D9). -/
def Obligations.MatchesComparesChecksumAndTrailer : Prop :=
  ∀ s : State,
    refusesWhenFaulted .matchesTrailer s ∧ faultsWithoutUnit .matchesTrailer s ∧
    faultsOnShortPayload .matchesTrailer s ∧
    (∀ u d x, s.fault = none → s.unit = some u → u.variant = .ascii → u.splitsAs d [x] →
      exec .matchesTrailer s = .next { s with response := some (.bit (decide (lrc d = x))) }) ∧
    (∀ u d x y, s.fault = none → s.unit = some u → u.variant = .rtu → u.splitsAs d [x, y] →
      exec .matchesTrailer s = .next { s with
        response := some (.bit (decide ((crcOut d).extractLsb' 8 8 = x ∧ (crcOut d).extractLsb' 0 8 = y))) })

/-- R190 to R193: ENCODE answers the frame of its variant; it reads and writes no unit and never faults; it is refused if
the response, `len(pdata) + 4` bytes for `Rtu` and `2 * len(pdata) + 9` for `Ascii`, would be longer than `MAX_LEN`. The
delimiter does not matter for `Rtu`, and where omitted it is `'\n'` (R101 (a)).
That the host sees a refusal in the response field is the model's form (notes/assumptions/1).
That a recorded fault is the reason where the length is over MAX_LEN too is the model's choice (notes/assumptions/8). -/
def Obligations.EncodeAnswersTheFrame : Prop :=
  (∀ (s : State) (addr : Byte) (p : Pdu) (delim : Byte),
    (∀ v, refusesWhenFaulted (.encode v addr p delim) s ∧
      (s.fault = none → s.params.maxLen < encodedLength v p →
        exec (.encode v addr p delim) s = .next { s with response := some (.refused .tooLong) })) ∧
    (s.fault = none → p.pdata.length + 4 ≤ s.params.maxLen →
      exec (.encode .rtu addr p delim) s = .next { s with response := some (.bytes
        ((addr :: p.fc :: p.pdata) ++
          [(crcOut (addr :: p.fc :: p.pdata)).extractLsb' 8 8, (crcOut (addr :: p.fc :: p.pdata)).extractLsb' 0 8])) }) ∧
    (s.fault = none → 2 * p.pdata.length + 9 ≤ s.params.maxLen →
      exec (.encode .ascii addr p delim) s = .next { s with response := some (.bytes
        ([0x3A#8] ++ hexEncode s.params.hexCase ((addr :: p.fc :: p.pdata) ++ [lrc (addr :: p.fc :: p.pdata)]) ++
          [0x0D#8, delim])) })) ∧
  (∀ v addr p, encodeDefault v addr p = .encode v addr p 0x0A#8)

/-! ### Frames -/

/-- The nine readers (R95): whatever the outcome, the unit register, the parameters and the events still to come are
unchanged, and the fault record changes only by a fault entry from no fault (R29, R58).
That the host sees a fault in the response field is the model's form (notes/assumptions/1). -/
def Obligations.ReadersChangeOnlyFaultAndResponse : Prop :=
  ∀ (i : Instr) (s t : State), i ∈ unitReaders → exec i s = .next t →
    t.unit = s.unit ∧ t.params = s.params ∧ t.inbox = s.inbox ∧
    (t.fault = s.fault ∨ (s.fault = none ∧ ∃ c, t.fault = some c ∧ t.response = some (.fault c)))

/-- LRC8, CRC16 and ENCODE (R61 (c), R194): only the response changes, and it depends on the operands, the parameters and
whether a fault is recorded, not on the unit register, the events to come or an earlier response. -/
def Obligations.PureOperationsTouchNoState : Prop :=
  ∀ (i : Instr), isPure i = true → ∀ s t : State, exec i s = .next t →
    t = { s with response := t.response } ∧
    (∀ s' t' : State, s'.params = s.params → s'.fault = s.fault → exec i s' = .next t' → t'.response = t.response)

/-- DECODE (R120): whatever the outcome, the fault record, the parameters and the events still to come are unchanged, and
the unit register is as it was or holds exactly the operands.
The acknowledgement loaded and the refusal in the response field are the model's form (notes/assumptions/1): R120
gives no response value. -/
def Obligations.DecodeChangesOnlyUnitAndResponse : Prop :=
  ∀ (v : Variant) (bytes : List Byte) (s t : State), exec (.decode v bytes) s = .next t →
    t.fault = s.fault ∧ t.params = s.params ∧ t.inbox = s.inbox ∧
    ((t.unit = s.unit ∧ ∃ r, t.response = some (.refused r)) ∨
      (t.unit = some { variant := v, raw := bytes } ∧ t.response = some .loaded))

/-- R58, R61: reads have no side effect. After a reader that did not fault, every operation gives what it would have given
without that read. -/
def Obligations.ReadsHaveNoSideEffect : Prop :=
  ∀ (i j : Instr) (s t : State), i ∈ unitReaders → exec i s = .next t → t.fault = none →
    ∀ t' : State, exec j s = .next t' → exec j t = .next t'

/-! ### Helpers of the decoder -/

/-- R117: the interior is what is left without the first byte and the last two, by position, whatever their values; it is
empty for fewer than three raw bytes.
The empty interior of one or two bytes is the spec's own choice (R117, decision D12, notes/assumptions/13). -/
def Obligations.InteriorStripsByPosition : Prop :=
  (∀ (a x y : Byte) (t : List Byte), asciiInterior ([a] ++ t ++ [x, y]) = t) ∧
  (∀ raw : List Byte, raw.length < 3 → asciiInterior raw = [])

/-- R118: with `h` the length of the longest all-hex prefix, the decoding has `h / 2` bytes, the `j`-th being
`HexVal(t[2j]) * 16 + HexVal(t[2j+1])`.
The extent of the prefix is the spec's own choice (R118, decision D13, notes/assumptions/5). -/
def Obligations.HexPrefixDecodeTakesWholePairs : Prop :=
  ∀ (t : List Byte) (h : Nat), h ≤ t.length → (∀ c ∈ t.take h, isHex c = true) →
    (∀ c, t[h]? = some c → isHex c = false) →
    (hexPrefixDecode t).length = h / 2 ∧
    ∀ j < h / 2, ∃ c0 c1 d0 d1, t[2 * j]? = some c0 ∧ t[2 * j + 1]? = some c1 ∧ hexVal c0 = some d0 ∧
      hexVal c1 = some d1 ∧ ((hexPrefixDecode t)[j]?).map BitVec.toNat = some (d0.toNat * 16 + d1.toNat)

/-- R86: the value of each digit of either case, and of no other byte; a pair gives `HexVal(c0) * 16 + HexVal(c1)`.
That either case is accepted is the spec's own choice (R86, decision D14). -/
def Obligations.HexDigitsOfEitherCase : Prop :=
  (∀ d0 d1 : BitVec 4, pairNibbles [d0, d1] = [BitVec.ofNat 8 (d0.toNat * 16 + d1.toNat)]) ∧
  ∀ c : Byte,
    (0x30 ≤ c.toNat → c.toNat ≤ 0x39 → (hexVal c).map BitVec.toNat = some (c.toNat - 0x30)) ∧
    (0x41 ≤ c.toNat → c.toNat ≤ 0x46 → (hexVal c).map BitVec.toNat = some (c.toNat - 0x41 + 10)) ∧
    (0x61 ≤ c.toNat → c.toNat ≤ 0x66 → (hexVal c).map BitVec.toNat = some (c.toNat - 0x61 + 10)) ∧
    (isHex c = true ↔ (0x30 ≤ c.toNat ∧ c.toNat ≤ 0x39) ∨ (0x41 ≤ c.toNat ∧ c.toNat ≤ 0x46) ∨
      (0x61 ≤ c.toNat ∧ c.toNat ≤ 0x66))

/-- R85, R54: `Hex` gives two characters per byte, the high nibble's first, each the digit of its nibble in the one case
of the instance.
One case per instance and the nibble order are the spec's own choice (R85, R54, decisions D15, D16,
notes/assumptions/10). -/
def Obligations.HexEncodeLaysOutPairs : Prop :=
  (∀ (c : HexCase) (s : List Byte), (hexEncode c s).length = 2 * s.length ∧
    ∀ i b, s[i]? = some b →
      (hexEncode c s)[2 * i]? = some (hexChar c (b.extractLsb' 4 4)) ∧
      (hexEncode c s)[2 * i + 1]? = some (hexChar c (b.extractLsb' 0 4))) ∧
  (∀ (c : HexCase) (v : BitVec 4), v.toNat ≤ 9 → (hexChar c v).toNat = 0x30 + v.toNat) ∧
  (∀ v : BitVec 4, 10 ≤ v.toNat → (hexChar .upper v).toNat = 0x41 + (v.toNat - 10)) ∧
  (∀ v : BitVec 4, 10 ≤ v.toNat → (hexChar .lower v).toNat = 0x61 + (v.toNat - 10))

/-- R118: on a well-formed interior the decoding is the inverse of `Hex`, for both cases of letters. -/
def Obligations.HexPrefixDecodeInvertsHexEncode : Prop :=
  ∀ (c : HexCase) (s : List Byte), hexPrefixDecode (hexEncode c s) = s

/-- R119: the `Rtu` payload is the raw bytes, the `Ascii` payload the decoded interior; the latter has at
most `(n - 3) / 2` bytes, with equality where every interior byte is a hex digit.
The spec marks the lengths as its own inference (R119). -/
def Obligations.PayloadLengths : Prop :=
  (∀ raw : List Byte, payload .rtu raw = raw ∧ payload .ascii raw = hexPrefixDecode (asciiInterior raw)) ∧
  (∀ raw : List Byte, (payload .ascii raw).length ≤ (raw.length - 3) / 2) ∧
  (∀ raw : List Byte, (∀ c ∈ asciiInterior raw, isHex c = true) → (payload .ascii raw).length = (raw.length - 3) / 2)

/-- R117, R98, R253: the framing bytes of an ASCII frame are not examined: frames with the same interior have the same
payload, hence the same answer to every accessor of the payload and to MATCHES. -/
def Obligations.FramingBytesAreNotExamined : Prop :=
  ∀ (a x y a' x' y' : Byte) (t : List Byte) (s : State),
    payload .ascii ([a] ++ t ++ [x, y]) = payload .ascii ([a'] ++ t ++ [x', y']) ∧
    ∀ i ∈ [Instr.empty, .size, .data, .serverAddress, .pdu, .checksum, .matchesTrailer], ∀ t1 t2 : State,
      exec i { s with unit := some { variant := .ascii, raw := [a] ++ t ++ [x, y] } } = .next t1 →
      exec i { s with unit := some { variant := .ascii, raw := [a'] ++ t ++ [x', y'] } } = .next t2 →
      t1.response = t2.response ∧ t1.fault = t2.fault

/-! ### The checksum generators -/

/-- R152 (a) to (f): the laws of the LRC. -/
def Obligations.LrcLaws : Prop :=
  (∀ t : List Byte, sum8 t + lrc t = 0#8) ∧
  (∀ t : List Byte, lrc (t ++ [lrc t]) = 0#8) ∧
  (∀ t u : List Byte, lrc (t ++ u) = lrc t + lrc u) ∧
  (∀ t u : List Byte, t.Perm u → lrc t = lrc u) ∧
  (∀ (t : List Byte) (i : Nat) (b c : Byte), t[i]? = some b → c ≠ b → lrc (t.set i c) ≠ lrc t) ∧
  (∀ (t : List Byte) (i j : Nat) (b c b' c' : Byte), i ≠ j → t[i]? = some b → t[j]? = some c → b + c = b' + c' →
    lrc ((t.set i b').set j c') = lrc t)

/-- R156: the bit step, bit by bit: every bit moves up by one, and the bits of 0x8005 are inverted if the high bit, as it
stood before the shift, differs from the input bit. -/
def Obligations.CrcBitStepIsShiftAndConditionalXor : Prop :=
  ∀ (crc : Half) (d : Bool) (i : Nat), i < 16 →
    (crcBit crc d).getLsbD i =
      ((decide (0 < i) && crc.getLsbD (i - 1)) ^^ ((crc.getLsbD 15 ^^ d) && (0x8005#16).getLsbD i))

/-- R155, R157: the register starts at 0xFFFF and takes the bytes in index order, eight bit steps each, least significant
bit first. -/
def Obligations.CrcRegisterTakesBytesInOrder : Prop :=
  crcReg [] = 0xFFFF#16 ∧
  (∀ (bytes : List Byte) (c : Byte), crcReg (bytes ++ [c]) = crcByte (crcReg bytes) c) ∧
  (∀ (r : Half) (c : Byte), crcByte r c =
    crcBit (crcBit (crcBit (crcBit (crcBit (crcBit (crcBit (crcBit r (c.getLsbD 0)) (c.getLsbD 1)) (c.getLsbD 2))
      (c.getLsbD 3)) (c.getLsbD 4)) (c.getLsbD 5)) (c.getLsbD 6)) (c.getLsbD 7))

/-- R158, R159: `Reflect16` reverses the bits and is its own inverse, `Swap16` exchanges the bytes, `crc_std` is the
reflected register and `crc_out` the swapped `crc_std`. -/
def Obligations.ReflectionAndSwap : Prop :=
  (∀ (x : Half) (i : Nat), i < 16 → (reflect16 x).getLsbD i = x.getLsbD (15 - i)) ∧
  (∀ x : Half, reflect16 (reflect16 x) = x) ∧
  (∀ x : Half, swap16 x = ((x &&& 0x00FF#16) <<< 8) ||| (x >>> 8)) ∧
  (∀ bytes : List Byte, crcStd bytes = reflect16 (crcReg bytes) ∧ crcOut bytes = swap16 (crcStd bytes)) ∧
  (∀ bytes : List Byte, crcTrailer (crcOut bytes) = [(crcStd bytes).extractLsb' 0 8, (crcStd bytes).extractLsb' 8 8])

/-- R160 (a), (b): `crc_out` is the register with each byte reflected in place, and `crc_std` is what the right-shifting
form with 0xA001 computes. -/
def Obligations.CrcEqualsTheRightShiftingForm : Prop :=
  (∀ bytes : List Byte,
    (crcOut bytes).extractLsb' 8 8 = ((crcReg bytes).extractLsb' 8 8).reverse ∧
    (crcOut bytes).extractLsb' 0 8 = ((crcReg bytes).extractLsb' 0 8).reverse) ∧
  (∀ bytes : List Byte, crcStd bytes = crcShiftRight bytes)

/-- R161 (b): a sequence followed by its own trailer drives the register to zero. -/
def Obligations.CrcResidueIsZero : Prop :=
  ∀ t : List Byte, crcReg (t ++ [(crcOut t).extractLsb' 8 8, (crcOut t).extractLsb' 0 8]) = 0#16

/-- R161 (c): the bit step is linear over XOR, and the register of two equal-length inputs XORed byte by byte differs from
the XOR of their registers by a constant of the length alone. -/
def Obligations.CrcIsLinearOverXor : Prop :=
  (∀ (r r' : Half) (d d' : Bool), crcBit (r ^^^ r') (d ^^ d') = crcBit r d ^^^ crcBit r' d') ∧
  (∀ n : Nat, ∃ k : Half, ∀ a b : List Byte, a.length = n → b.length = n →
    crcReg (List.zipWith (· ^^^ ·) a b) = crcReg a ^^^ crcReg b ^^^ k)

/-- R162: in an `Rtu` unit that matches, inverting any one bit of the address or payload region, the checksum unchanged,
makes MATCHES answer 0. -/
def Obligations.SingleBitErrorsAreDetected : Prop :=
  ∀ (s : State) (raw : List Byte) (i j : Nat) (b : Byte), s.fault = none →
    s.unit = some { variant := .rtu, raw := raw } →
    exec .matchesTrailer s = .next { s with response := some (.bit true) } →
    i < raw.length - 2 → raw[i]? = some b → j < 8 →
    exec .matchesTrailer { s with unit := some { variant := .rtu, raw := raw.set i (b ^^^ (1#8 <<< j)) } } =
      .next { s with
        unit := some { variant := .rtu, raw := raw.set i (b ^^^ (1#8 <<< j)) }, response := some (.bit false) }

/-- R151, R157, R28, R254: the serial generators on their working registers end after a number of steps linear in the
length (8 per byte for the CRC, 1 for the LRC), hold then the values the operations use, and go no further. -/
def Obligations.SerialStepsComputeTheChecksums : Prop :=
  (∀ (bytes : List Byte) (extra : Nat), crcWorkRun bytes (8 * bytes.length + extra) crcWorkInit =
    { crc := crcReg bytes, byteIndex := bytes.length, k := 0#3 }) ∧
  (∀ (bytes : List Byte) (extra : Nat), lrcWorkRun bytes (bytes.length + extra) lrcWorkInit =
    { sum := sum8 bytes, byteIndex := bytes.length }) ∧
  (∀ bytes : List Byte, lrc bytes = ~~~(sum8 bytes) + 1#8)

/-- S1, S2 of spec/95_test_vectors.md: the source's reference input. -/
def Obligations.ReferenceVectors : Prop :=
  crcReg [0x01, 0x03, 0x00, 0x00, 0x00, 0x01] = 0x2150#16 ∧
  crcStd [0x01, 0x03, 0x00, 0x00, 0x00, 0x01] = 0x0A84#16 ∧
  crcOut [0x01, 0x03, 0x00, 0x00, 0x00, 0x01] = 0x840A#16 ∧
  crcTrailer (crcOut [0x01, 0x03, 0x00, 0x00, 0x00, 0x01]) = [0x84#8, 0x0A#8] ∧
  lrc [0x01, 0x03, 0x00, 0x00, 0x00, 0x01] = 0xFB#8

/-! ### Encoder against decoder -/

/-- R195: encode then decode, for every variant, address, PDU, delimiter and either hex case: the decoded unit answers
every accessor with the original inputs, and MATCHES is 1.
The source states SERVER_ADDRESS, PDU and MATCHES; the spec marks the rest as its own inference (R195). -/
def Obligations.EncodeThenDecodeGivesBackTheInputs : Prop :=
  ∀ (s : State) (v : Variant) (addr : Byte) (p : Pdu) (delim : Byte), s.fault = none →
    encodedLength v p ≤ s.params.maxLen →
    ∃ f s1 s2, exec (.encode v addr p delim) s = .next s1 ∧ s1.response = some (.bytes f) ∧
      exec (.decode v f) s1 = .next s2 ∧
      exec .empty s2 = .next { s2 with response := some (.bit false) } ∧
      exec .size s2 = .next { s2 with response := some (.number (2 + p.pdata.length)) } ∧
      exec .data s2 = .next { s2 with response := some (.bytes ([addr] ++ [p.fc] ++ p.pdata)) } ∧
      exec .serverAddress s2 = .next { s2 with response := some (.byte addr) } ∧
      exec .pdu s2 = .next { s2 with response := some (.pdu p) } ∧
      exec .matchesTrailer s2 = .next { s2 with response := some (.bit true) } ∧
      exec .rawData s2 = .next { s2 with response := some (.bytes f) } ∧
      (v = .rtu → exec .checksum s2 =
        .next { s2 with response := some (.half (crcOut ([addr] ++ [p.fc] ++ p.pdata))) }) ∧
      (v = .ascii → exec .checksum s2 =
        .next { s2 with response := some (.byte (lrc ([addr] ++ [p.fc] ++ p.pdata))) })

/-- R196: decode then encode, for well-formed frames: re-encoding what the accessors answer reproduces the raw bytes. -/
def Obligations.DecodeThenEncodeReproducesTheFrame : Prop :=
  ∀ (s : State) (v : Variant) (r : List Byte) (delim : Byte), s.fault = none → r.length ≤ s.params.maxLen →
    s.unit = some { variant := v, raw := r } → wellFormedFrame s.params.hexCase delim v r →
    ∃ a p, exec .serverAddress s = .next { s with response := some (.byte a) } ∧
      exec .pdu s = .next { s with response := some (.pdu p) } ∧
      exec (.encode v a p delim) s = .next { s with response := some (.bytes r) }

/-- R197: the shape of an ASCII response.
The source states it for address 1 and the default delimiter; the spec marks the general form as its own inference
(R197). -/
def Obligations.AsciiFrameShape : Prop :=
  ∀ (s : State) (addr : Byte) (p : Pdu) (delim : Byte), s.fault = none →
    encodedLength .ascii p ≤ s.params.maxLen →
    ∃ f, exec (.encode .ascii addr p delim) s = .next { s with response := some (.bytes f) } ∧
      f[0]? = some 0x3A#8 ∧ f[f.length - 2]? = some 0x0D#8 ∧ f[f.length - 1]? = some delim ∧
      f.length % 2 = 1 ∧ 9 ≤ f.length ∧
      (∀ i c, 1 ≤ i → i < f.length - 2 → f[i]? = some c → isHex c = true ∧ ∃ v, c = hexChar s.params.hexCase v) ∧
      f[1]? = some (hexChar s.params.hexCase (addr.extractLsb' 4 4)) ∧
      f[2]? = some (hexChar s.params.hexCase (addr.extractLsb' 0 4))

/-! ### The host's duties and hazards -/

/-- R244: a host that checks emptiness, and reads SIZE before SERVER_ADDRESS and PDU (and, for `Rtu`, RAW_SIZE before
SIZE), meets no fault. -/
def Obligations.CheckedAccessorsNeverFault : Prop :=
  ∀ (s : State) (u : SerialAdu), s.fault = none → s.unit = some u →
    exec .empty s = .next { s with response := some (.bit false) } → (u.variant = .rtu → 2 ≤ u.raw.length) →
    (∀ i ∈ [Instr.size, .data, .checksum, .matchesTrailer], ∃ t, exec i s = .next t ∧ t.good) ∧
    (∀ n, exec .size s = .next { s with response := some (.number n) } →
      (1 ≤ n → ∃ t, exec .serverAddress s = .next t ∧ t.good) ∧ (2 ≤ n → ∃ t, exec .pdu s = .next t ∧ t.good))

/-- R247: whatever follows a complete good interior, if it starts with a byte that is no hex digit or is one lone digit,
is not seen: the frame decodes to the same payload and matches as the good frame does. -/
def Obligations.MalformedTailIsNotDetected : Prop :=
  ∀ (c : HexCase) (q tail : List Byte) (a x y : Byte),
    (tail.length ≤ 1 ∨ ∃ z rest, tail = z :: rest ∧ isHex z = false) →
    payload .ascii ([a] ++ (hexEncode c q ++ tail) ++ [x, y]) = q ∧
    SerialAdu.matchesFlag { variant := .ascii, raw := [a] ++ (hexEncode c q ++ tail) ++ [x, y] } =
      SerialAdu.matchesFlag { variant := .ascii, raw := [a] ++ hexEncode c q ++ [x, y] }

/-! ### Command encodings -/

/-- R96, R102: the command that presents an operation decodes to it, with every operand. -/
def Obligations.DecodeOfEncodeIsTheOperation : Prop :=
  ∀ i : Instr, decode (encode i) = .ok i

/-- R96, R102: a command decodes to an operation exactly when `op` is its select code and the fields its format names hold
its operands; fields its format does not name play no part (notes/assumptions/6). -/
def Obligations.DecodeReadsTheFieldsOfTheFormat : Prop :=
  ∀ (c : Command) (i : Instr), decode c = .ok i ↔
    c.op = opCode i ∧
    (match i with
      | .decode v bytes => c.variant = variantCode v ∧ c.bytes = bytes
      | .lrc8 bytes => c.bytes = bytes
      | .crc16 bytes => c.bytes = bytes
      | .encode v addr p delim =>
        c.variant = variantCode v ∧ c.addr = addr ∧ c.fc = p.fc ∧ c.pdata = p.pdata ∧ c.delim = delim
      | .empty | .size | .data | .serverAddress | .pdu | .checksum | .rawSize | .rawData | .matchesTrailer => True)

/-- R96, R102, R97: the table's words decode to their rows' operations, the variant being bit 4, and the reserved codes to
none.
The codes are the spec's own choice (R96, decision D3).
That a bare word has zero operands, so that ENCODE's delimiter is 00 and not the default, is the model's choice
(notes/assumptions/14). -/
def Obligations.TableWordsDecodeToTheirRows : Prop :=
  [0x00, 0x10, 0x01, 0x02, 0x03, 0x04, 0x05, 0x06, 0x07, 0x08, 0x09, 0x0A, 0x0B, 0x0C, 0x1C, 0x0D, 0x0E, 0x0F].map
      (decodeTableWord 8) =
    [some (.decode .ascii []), some (.decode .rtu []), some .empty, some .size, some .data, some .serverAddress,
      some .pdu, some .checksum, some .rawSize, some .rawData, some (.lrc8 []), some (.crc16 []),
      some .matchesTrailer, some (.encode .ascii 0 { fc := 0, pdata := [] } 0),
      some (.encode .rtu 0 { fc := 0, pdata := [] } 0), none, none, none]

/-- R35, R62, R224: an instance of a bank steps by `step` on its own state, to a next state that exists for every
state and
is the same in every bank that holds that state there; every other instance stays as it was, none is made or lost, and
steps of two instances commute.
That instances are a list of States of which a step changes one is the model's choice (notes/assumptions/11). -/
def Obligations.InstancesAreIndependent : Prop :=
  (∀ (b : Bank) (n : Nat) (s t : State), b[n]? = some s → step s = .next t → (b.stepAt n)[n]? = some t) ∧
  (∀ (b : Bank) (n : Nat) (s : State), b[n]? = some s → ∃ t, step s = .next t ∧ (b.stepAt n)[n]? = some t) ∧
  (∀ (b b' : Bank) (n : Nat), b[n]? = b'[n]? → (b.stepAt n)[n]? = (b'.stepAt n)[n]?) ∧
  (∀ (b : Bank) (n : Nat), (b.stepAt n).length = b.length) ∧
  (∀ (b : Bank) (n m : Nat), n ≠ m →
    (b.stepAt n)[m]? = b[m]? ∧ (b.stepAt n).stepAt m = (b.stepAt m).stepAt n)
end

