-- ==== Sys2Proof/Laws/Checksum.lean ====
section
/-! SUPPORT. The generators: folding over appended ranges, and the CRC's bit steps as a fixed chain. -/

namespace Sys2Proof.Machine

theorem crcByte_eq (r : Half) (c : Byte) : crcByte r c =
    crcBit (crcBit (crcBit (crcBit (crcBit (crcBit (crcBit (crcBit r (c.getLsbD 0)) (c.getLsbD 1)) (c.getLsbD 2))
      (c.getLsbD 3)) (c.getLsbD 4)) (c.getLsbD 5)) (c.getLsbD 6)) (c.getLsbD 7) := rfl

theorem sum8_foldl (t : List Byte) (a : Byte) : t.foldl lrcByte a = a + sum8 t := by
  induction t generalizing a with
  | nil => simp [sum8, lrcInit]
  | cons c t ih =>
    have h := ih (lrcByte lrcInit c)
    simp only [sum8, List.foldl_cons] at *
    rw [ih, h]
    simp [lrcByte, lrcInit, BitVec.add_assoc]

@[simp] theorem sum8_nil : sum8 [] = 0#8 := rfl

theorem sum8_append (t u : List Byte) : sum8 (t ++ u) = sum8 t + sum8 u := by
  conv_lhs => rw [sum8, List.foldl_append]
  rw [sum8_foldl]; rfl

@[simp] theorem sum8_cons (c : Byte) (t : List Byte) : sum8 (c :: t) = c + sum8 t := by
  conv_lhs => rw [sum8, List.foldl_cons]
  rw [sum8_foldl]; simp [lrcByte, lrcInit]

@[simp] theorem crcReg_nil : crcReg [] = crcInit := rfl

theorem crcReg_append (t u : List Byte) : crcReg (t ++ u) = u.foldl crcByte (crcReg t) := by
  simp [crcReg]

theorem crcReg_append_singleton (t : List Byte) (c : Byte) : crcReg (t ++ [c]) = crcByte (crcReg t) c := by
  simp [crcReg]

end Sys2Proof.Machine
end

