-- ==== Sys2Proof/Laws/State.lean ====
section
/-! SUPPORT. One lemma per field per named update of the state, so that no proof unfolds a record update. -/

namespace Sys2Proof.Machine

variable (s : State)

@[simp] theorem State.respond_unit (r : Response) : (s.respond r).unit = s.unit := rfl
@[simp] theorem State.respond_fault (r : Response) : (s.respond r).fault = s.fault := rfl
@[simp] theorem State.respond_params (r : Response) : (s.respond r).params = s.params := rfl
@[simp] theorem State.respond_inbox (r : Response) : (s.respond r).inbox = s.inbox := rfl
@[simp] theorem State.respond_response (r : Response) : (s.respond r).response = some r := rfl

@[simp] theorem State.refuse_unit (r : Rejection) : (s.refuse r).unit = s.unit := rfl
@[simp] theorem State.refuse_fault (r : Rejection) : (s.refuse r).fault = s.fault := rfl
@[simp] theorem State.refuse_params (r : Rejection) : (s.refuse r).params = s.params := rfl
@[simp] theorem State.refuse_inbox (r : Rejection) : (s.refuse r).inbox = s.inbox := rfl
@[simp] theorem State.refuse_response (r : Rejection) : (s.refuse r).response = some (.refused r) := rfl

@[simp] theorem State.takeFault_unit (c : FaultCause) : (s.takeFault c).unit = s.unit := rfl
@[simp] theorem State.takeFault_fault (c : FaultCause) : (s.takeFault c).fault = some c := rfl
@[simp] theorem State.takeFault_params (c : FaultCause) : (s.takeFault c).params = s.params := rfl
@[simp] theorem State.takeFault_inbox (c : FaultCause) : (s.takeFault c).inbox = s.inbox := rfl
@[simp] theorem State.takeFault_response (c : FaultCause) : (s.takeFault c).response = some (.fault c) := rfl

@[simp] theorem State.afterReset_unit : s.afterReset.unit = none := rfl
@[simp] theorem State.afterReset_fault : s.afterReset.fault = none := rfl
@[simp] theorem State.afterReset_params : s.afterReset.params = s.params := rfl
@[simp] theorem State.afterReset_inbox : s.afterReset.inbox = s.inbox := rfl
@[simp] theorem State.afterReset_response : s.afterReset.response = none := rfl

@[simp] theorem State.loadUnit_unit (v : Variant) (raw : List Byte) : (s.loadUnit v raw).unit = some { variant := v, raw := raw } := rfl
@[simp] theorem State.loadUnit_fault (v : Variant) (raw : List Byte) : (s.loadUnit v raw).fault = s.fault := rfl
@[simp] theorem State.loadUnit_params (v : Variant) (raw : List Byte) : (s.loadUnit v raw).params = s.params := rfl
@[simp] theorem State.loadUnit_inbox (v : Variant) (raw : List Byte) : (s.loadUnit v raw).inbox = s.inbox := rfl
@[simp] theorem State.loadUnit_response (v : Variant) (raw : List Byte) : (s.loadUnit v raw).response = some .loaded := rfl

@[simp] theorem State.withInbox_unit (rest : List HostEvent) : (s.withInbox rest).unit = s.unit := rfl
@[simp] theorem State.withInbox_fault (rest : List HostEvent) : (s.withInbox rest).fault = s.fault := rfl
@[simp] theorem State.withInbox_params (rest : List HostEvent) : (s.withInbox rest).params = s.params := rfl
@[simp] theorem State.withInbox_inbox (rest : List HostEvent) : (s.withInbox rest).inbox = rest := rfl
@[simp] theorem State.withInbox_response (rest : List HostEvent) : (s.withInbox rest).response = s.response := rfl

@[simp] theorem State.issueFirst_unit (c : Command) : (s.issueFirst c).unit = s.unit := rfl
@[simp] theorem State.issueFirst_fault (c : Command) : (s.issueFirst c).fault = s.fault := rfl
@[simp] theorem State.issueFirst_params (c : Command) : (s.issueFirst c).params = s.params := rfl
@[simp] theorem State.issueFirst_inbox (c : Command) : (s.issueFirst c).inbox = .command c :: s.inbox := rfl
@[simp] theorem State.issueFirst_response (c : Command) : (s.issueFirst c).response = s.response := rfl

/-- Issuing a command first and taking it again gives back the state. -/
@[simp] theorem State.issueFirst_withInbox (c : Command) : (s.issueFirst c).withInbox s.inbox = s := rfl

/-- Every answer overwrites the last response, so an earlier one never shows. -/
@[simp] theorem State.respond_respond (r r' : Response) : (s.respond r).respond r' = s.respond r' := rfl
@[simp] theorem State.respond_refuse (r : Response) (j : Rejection) : (s.respond r).refuse j = s.refuse j := rfl
@[simp] theorem State.respond_takeFault (r : Response) (c : FaultCause) : (s.respond r).takeFault c = s.takeFault c := rfl
@[simp] theorem State.respond_loadUnit (r : Response) (v : Variant) (raw : List Byte) :
    (s.respond r).loadUnit v raw = s.loadUnit v raw := rfl

@[simp] theorem State.reset_unit : State.reset.unit = none := rfl
@[simp] theorem State.reset_fault : State.reset.fault = none := rfl
@[simp] theorem State.reset_params : State.reset.params = Config.params := rfl
@[simp] theorem State.reset_inbox : State.reset.inbox = [] := rfl
@[simp] theorem State.reset_response : State.reset.response = none := rfl

end Sys2Proof.Machine
end

