-- ==== Sys2Proof/Laws/Ops.lean ====
section
/-! SUPPORT. What the shared operations can do: the admission tests of R129 case by case, and one lemma each that says
everything `withUnit` and `withLength` can answer. -/

namespace Sys2Proof.Machine

/-! ### The unit tests of R129, for the four prefixes the operations use -/

theorem trailerWidth_pos (v : Variant) : 0 < trailerWidth v := by cases v <;> decide

@[simp] theorem firstCause_zero (u : SerialAdu) : firstCause 0 u = none := rfl

theorem firstCause_empty {n : Nat} (hn : 1 ≤ n) {u : SerialAdu} (h : u.payload.length = 0) :
    firstCause n u = some .emptyUnit := by
  obtain ⟨m, rfl⟩ : ∃ m, n = m + 1 := ⟨n - 1, by omega⟩
  simp [firstCause, unitTests, h]

theorem firstCause_short {n : Nat} (hn : 2 ≤ n) {u : SerialAdu} (h0 : u.payload.length ≠ 0)
    (h : u.payload.length < trailerWidth u.variant) : firstCause n u = some .shortUnit := by
  obtain ⟨m, rfl⟩ : ∃ m, n = m + 2 := ⟨n - 2, by omega⟩
  simp_all [firstCause, unitTests]

theorem firstCause_two {u : SerialAdu} (h : trailerWidth u.variant ≤ u.payload.length) : firstCause 2 u = none := by
  have := trailerWidth_pos u.variant
  have h0 : u.payload ≠ [] := by intro hq; rw [hq] at h; simp at h; omega
  simp [firstCause, unitTests, h0]; omega

theorem firstCause_noAddress {n : Nat} (hn : 3 ≤ n) {u : SerialAdu}
    (h : u.payload.length = trailerWidth u.variant) : firstCause n u = some .noAddress := by
  obtain ⟨m, rfl⟩ : ∃ m, n = m + 3 := ⟨n - 3, by omega⟩
  have h0 : trailerWidth u.variant ≠ 0 := (trailerWidth_pos u.variant).ne'
  simp [firstCause, unitTests, SerialAdu.logicalSize, h, h0]

theorem firstCause_three {u : SerialAdu} (h : trailerWidth u.variant < u.payload.length) : firstCause 3 u = none := by
  have := trailerWidth_pos u.variant
  have h0 : u.payload ≠ [] := by intro hq; rw [hq] at h; simp at h
  simp [firstCause, unitTests, h0, SerialAdu.logicalSize]; omega

theorem firstCause_noFunctionCode {u : SerialAdu} (h : u.payload.length = trailerWidth u.variant + 1) :
    firstCause 4 u = some .noFunctionCode := by
  simp [firstCause, unitTests, SerialAdu.logicalSize, h]

theorem firstCause_four {u : SerialAdu} (h : trailerWidth u.variant + 1 < u.payload.length) : firstCause 4 u = none := by
  have h0 : u.payload ≠ [] := by intro hq; rw [hq] at h; simp at h
  have h1 : ¬ u.payload.length < trailerWidth u.variant := by omega
  have h2 : u.payload.length - trailerWidth u.variant ≠ 0 := by omega
  have h3 : u.payload.length - trailerWidth u.variant ≠ 1 := by omega
  simp only [firstCause, unitTests, SerialAdu.logicalSize]
  simp [h0, h1, h2, h3]

/-! ### Operations that read the unit -/

theorem withUnit_of_fault {s : State} {c : FaultCause} (h : s.fault = some c) (n : Nat) (f : SerialAdu → Response) :
    s.withUnit n f = s.refuse .faulted := by simp [State.withUnit, h]

theorem withUnit_of_noUnit {s : State} (h : s.fault = none) (hu : s.unit = none) (n : Nat) (f : SerialAdu → Response) :
    s.withUnit n f = s.takeFault .noUnit := by simp [State.withUnit, h, hu]

theorem withUnit_of_cause {s : State} {u : SerialAdu} {n : Nat} {c : FaultCause} (h : s.fault = none)
    (hu : s.unit = some u) (hc : firstCause n u = some c) (f : SerialAdu → Response) :
    s.withUnit n f = s.takeFault c := by simp [State.withUnit, h, hu, hc]

theorem withUnit_of_admitted {s : State} {u : SerialAdu} {n : Nat} (h : s.fault = none) (hu : s.unit = some u)
    (hc : firstCause n u = none) (f : SerialAdu → Response) :
    s.withUnit n f = s.respond (f u) := by simp [State.withUnit, h, hu, hc]

/-- Everything `withUnit` can answer. -/
theorem withUnit_cases (s : State) (n : Nat) (f : SerialAdu → Response) :
    (s.fault ≠ none ∧ s.withUnit n f = s.refuse .faulted) ∨
    (s.fault = none ∧ s.unit = none ∧ s.withUnit n f = s.takeFault .noUnit) ∨
    (∃ u c, s.fault = none ∧ s.unit = some u ∧ firstCause n u = some c ∧ s.withUnit n f = s.takeFault c) ∨
    (∃ u, s.fault = none ∧ s.unit = some u ∧ firstCause n u = none ∧ s.withUnit n f = s.respond (f u)) := by
  cases hf : s.fault with
  | some c => exact .inl ⟨by simp, withUnit_of_fault hf n f⟩
  | none =>
    cases hu : s.unit with
    | none => exact .inr (.inl ⟨rfl, rfl, withUnit_of_noUnit hf hu n f⟩)
    | some u =>
      cases hc : firstCause n u with
      | some c => exact .inr (.inr (.inl ⟨u, c, rfl, rfl, hc, withUnit_of_cause hf hu hc f⟩))
      | none => exact .inr (.inr (.inr ⟨u, rfl, rfl, hc, withUnit_of_admitted hf hu hc f⟩))

/-! ### Operations with a length -/

theorem withLength_of_fault {s : State} {c : FaultCause} (h : s.fault = some c) (len : Nat) (k : State → State) :
    s.withLength len k = s.refuse .faulted := by simp [State.withLength, h]

theorem withLength_of_fits {s : State} {len : Nat} (h : s.fault = none) (hl : len ≤ s.params.maxLen)
    (k : State → State) : s.withLength len k = k s := by
  simp [State.withLength, h, Nat.not_lt.mpr hl]

theorem withLength_of_long {s : State} {len : Nat} (h : s.fault = none) (hl : s.params.maxLen < len)
    (k : State → State) : s.withLength len k = s.refuse .tooLong := by
  simp [State.withLength, h, hl]

/-- Everything `withLength` can answer. -/
theorem withLength_cases (s : State) (len : Nat) (k : State → State) :
    (s.fault ≠ none ∧ s.withLength len k = s.refuse .faulted) ∨
    (s.fault = none ∧ s.params.maxLen < len ∧ s.withLength len k = s.refuse .tooLong) ∨
    (s.fault = none ∧ len ≤ s.params.maxLen ∧ s.withLength len k = k s) := by
  cases hf : s.fault with
  | some c => exact .inl ⟨by simp, withLength_of_fault hf len k⟩
  | none =>
    by_cases hl : len ≤ s.params.maxLen
    · exact .inr (.inr ⟨rfl, hl, withLength_of_fits hf hl k⟩)
    · exact .inr (.inl ⟨rfl, by omega, withLength_of_long hf (by omega) k⟩)

end Sys2Proof.Machine
end

