-- ==== Sys2Proof/Laws/Exec.lean ====
section
/-! SUPPORT. What one operation, one step and one step of a bank can do, said once: every later proof about them splits these
cases and unfolds neither. -/

namespace Sys2Proof.Machine

/-- How many of the unit tests of R129 a reader makes. -/
def testsOf : Instr → Nat
  | .size | .data | .checksum | .matchesTrailer => 2
  | .serverAddress => 3
  | .pdu => 4
  | .empty | .rawSize | .rawData | .decode _ _ | .lrc8 _ | .crc16 _ | .encode _ _ _ _ => 0

/-- What a reader answers, once admitted. -/
def answerOf : Instr → SerialAdu → Response
  | .empty, u => .bit u.emptyFlag
  | .size, u => .number u.logicalSize
  | .data, u => .bytes u.dataRegion
  | .serverAddress, u => .byte (u.payloadByte 0)
  | .pdu, u => .pdu u.pduOf
  | .checksum, u => u.checksumResponse
  | .rawSize, u => .number u.raw.length
  | .rawData, u => .bytes u.raw
  | .matchesTrailer, u => .bit u.matchesFlag
  | .decode _ _, _ | .lrc8 _, _ | .crc16 _, _ | .encode _ _ _ _, _ => .loaded

/-- What a pure operation answers, and the length it is admitted by. -/
def pureAnswer (c : HexCase) : Instr → Response
  | .lrc8 bytes => .byte (lrc bytes)
  | .crc16 bytes => .half (crcOut bytes)
  | .encode v addr p delim => .bytes (encodeFrame c v addr p delim)
  | _ => .loaded

/-- The length R219 tests. -/
def pureLength (c : HexCase) : Instr → Nat
  | .lrc8 bytes | .crc16 bytes => bytes.length
  | .encode v addr p delim => (encodeFrame c v addr p delim).length
  | _ => 0

/-! ### `exec`, one equation per operation -/

theorem exec_decode (v : Variant) (bytes : List Byte) (s : State) :
    exec (.decode v bytes) s = .next (s.withLength bytes.length (fun s => s.loadUnit v bytes)) := rfl
theorem exec_empty (s : State) : exec .empty s = .next (s.withUnit 0 (fun u => .bit u.emptyFlag)) := rfl
theorem exec_size (s : State) : exec .size s = .next (s.withUnit 2 (fun u => .number u.logicalSize)) := rfl
theorem exec_data (s : State) : exec .data s = .next (s.withUnit 2 (fun u => .bytes u.dataRegion)) := rfl
theorem exec_serverAddress (s : State) :
    exec .serverAddress s = .next (s.withUnit 3 (fun u => .byte (u.payloadByte 0))) := rfl
theorem exec_pdu (s : State) : exec .pdu s = .next (s.withUnit 4 (fun u => .pdu u.pduOf)) := rfl
theorem exec_checksum (s : State) : exec .checksum s = .next (s.withUnit 2 (fun u => u.checksumResponse)) := rfl
theorem exec_rawSize (s : State) : exec .rawSize s = .next (s.withUnit 0 (fun u => .number u.raw.length)) := rfl
theorem exec_rawData (s : State) : exec .rawData s = .next (s.withUnit 0 (fun u => .bytes u.raw)) := rfl
theorem exec_lrc8 (bytes : List Byte) (s : State) :
    exec (.lrc8 bytes) s = .next (s.withLength bytes.length (fun s => s.respond (.byte (lrc bytes)))) := rfl
theorem exec_crc16 (bytes : List Byte) (s : State) :
    exec (.crc16 bytes) s = .next (s.withLength bytes.length (fun s => s.respond (.half (crcOut bytes)))) := rfl
theorem exec_matchesTrailer (s : State) :
    exec .matchesTrailer s = .next (s.withUnit 2 (fun u => .bit u.matchesFlag)) := rfl
theorem exec_encode (v : Variant) (addr : Byte) (p : Pdu) (delim : Byte) (s : State) :
    exec (.encode v addr p delim) s = .next (s.withLength (encodeFrame s.params.hexCase v addr p delim).length
      (fun s => s.respond (.bytes (encodeFrame s.params.hexCase v addr p delim)))) := rfl

/-! ### The three shapes -/

/-- All nine readers are one shape. -/
theorem exec_reader {i : Instr} (h : i ∈ unitReaders) (s : State) :
    exec i s = .next (s.withUnit (testsOf i) (answerOf i)) := by
  simp only [unitReaders, List.mem_cons, List.not_mem_nil, or_false] at h
  rcases h with rfl | rfl | rfl | rfl | rfl | rfl | rfl | rfl | rfl <;> rfl

/-- All three pure operations are one shape. -/
theorem exec_pure {i : Instr} (h : isPure i = true) (s : State) :
    exec i s = .next (s.withLength (pureLength s.params.hexCase i) (fun s => s.respond (pureAnswer s.params.hexCase i))) := by
  cases i <;> first | rfl | cases h

/-- Every operation is a reader, pure, or DECODE. -/
theorem instr_cases (i : Instr) : i ∈ unitReaders ∨ isPure i = true ∨ ∃ v bytes, i = .decode v bytes := by
  cases i with
  | decode v bytes => exact .inr (.inr ⟨v, bytes, rfl⟩)
  | lrc8 bytes => exact .inr (.inl rfl)
  | crc16 bytes => exact .inr (.inl rfl)
  | encode v a p d => exact .inr (.inl rfl)
  | _ => exact .inl (by decide)

/-- Everything an operation can do. -/
theorem exec_cases (i : Instr) (s : State) :
    (∃ r, exec i s = .next (s.refuse r) ∧ (s.fault = none → r = .tooLong ∧ i ∉ unitReaders)) ∨
    (i ∈ unitReaders ∧ s.fault = none ∧ s.unit = none ∧ exec i s = .next (s.takeFault .noUnit)) ∨
    (∃ u c, i ∈ unitReaders ∧ s.fault = none ∧ s.unit = some u ∧ firstCause (testsOf i) u = some c ∧
      exec i s = .next (s.takeFault c)) ∨
    (∃ u, i ∈ unitReaders ∧ s.fault = none ∧ s.unit = some u ∧ firstCause (testsOf i) u = none ∧
      exec i s = .next (s.respond (answerOf i u))) ∨
    (isPure i = true ∧ s.fault = none ∧ pureLength s.params.hexCase i ≤ s.params.maxLen ∧
      exec i s = .next (s.respond (pureAnswer s.params.hexCase i))) ∨
    (∃ v bytes, i = .decode v bytes ∧ s.fault = none ∧ bytes.length ≤ s.params.maxLen ∧
      exec i s = .next (s.loadUnit v bytes)) := by
  rcases instr_cases i with h | h | ⟨v, bytes, rfl⟩
  · rw [exec_reader h]
    rcases withUnit_cases s (testsOf i) (answerOf i) with ⟨hf, e⟩ | ⟨hf, hu, e⟩ | ⟨u, c, hf, hu, hc, e⟩ | ⟨u, hf, hu, hc, e⟩
    · exact .inl ⟨_, by rw [e], fun h => absurd h hf⟩
    · exact .inr (.inl ⟨h, hf, hu, by rw [e]⟩)
    · exact .inr (.inr (.inl ⟨u, c, h, hf, hu, hc, by rw [e]⟩))
    · exact .inr (.inr (.inr (.inl ⟨u, h, hf, hu, hc, by rw [e]⟩)))
  · have hr : i ∉ unitReaders := by
      intro hm
      simp only [unitReaders, List.mem_cons, List.not_mem_nil, or_false] at hm
      rcases hm with rfl | rfl | rfl | rfl | rfl | rfl | rfl | rfl | rfl <;> cases h
    rw [exec_pure h]
    rcases withLength_cases s (pureLength s.params.hexCase i) (fun s => s.respond (pureAnswer s.params.hexCase i)) with
      ⟨hf, e⟩ | ⟨hf, _, e⟩ | ⟨hf, hl, e⟩
    · exact .inl ⟨_, by rw [e], fun h => absurd h hf⟩
    · exact .inl ⟨_, by rw [e], fun _ => ⟨rfl, hr⟩⟩
    · exact .inr (.inr (.inr (.inr (.inl ⟨h, hf, hl, by rw [e]⟩))))
  · rw [exec_decode]
    rcases withLength_cases s bytes.length (fun s => s.loadUnit v bytes) with ⟨hf, e⟩ | ⟨hf, hl, e⟩ | ⟨hf, hl, e⟩
    · exact .inl ⟨_, by rw [e], fun h => absurd h hf⟩
    · exact .inl ⟨_, by rw [e], fun _ => ⟨rfl, by simp [unitReaders]⟩⟩
    · exact .inr (.inr (.inr (.inr (.inr ⟨v, bytes, rfl, hf, hl, by rw [e]⟩))))

/-- Everything a step can do. -/
theorem step_cases (s : State) :
    (s.inbox = [] ∧ step s = .next s) ∨
    (∃ rest, s.inbox = .reset :: rest ∧ step s = .next (s.withInbox rest).afterReset) ∨
    (∃ c rest e, s.inbox = .command c :: rest ∧ decode c = .error e ∧
      step s = .next ((s.withInbox rest).refuse .reservedOp)) ∨
    (∃ c rest i, s.inbox = .command c :: rest ∧ decode c = .ok i ∧ step s = exec i (s.withInbox rest)) := by
  unfold step
  split
  · exact .inl ⟨‹_›, rfl⟩
  · exact .inr (.inl ⟨_, ‹_›, rfl⟩)
  · split
    · exact .inr (.inr (.inr ⟨_, _, _, ‹_›, ‹_›, rfl⟩))
    · exact .inr (.inr (.inl ⟨_, _, _, ‹_›, ‹_›, rfl⟩))

/-- No step stops. -/
theorem step_next (s : State) : ∃ t, step s = .next t := by
  rcases step_cases s with ⟨_, h⟩ | ⟨_, _, h⟩ | ⟨_, _, _, _, _, h⟩ | ⟨_, rest, i, _, _, h⟩
  · exact ⟨_, h⟩
  · exact ⟨_, h⟩
  · exact ⟨_, h⟩
  · rcases exec_cases i (s.withInbox rest) with ⟨_, e, _⟩ | ⟨_, _, _, e⟩ | ⟨_, _, _, _, _, _, e⟩ |
      ⟨_, _, _, _, _, e⟩ | ⟨_, _, _, e⟩ | ⟨_, _, _, _, _, e⟩ <;> exact ⟨_, h.trans e⟩

/-- Everything a step of a bank can do: no such instance, or instance `n` becomes the next state of its own step. -/
theorem stepAt_cases (b : Bank) (n : Nat) :
    (b[n]? = none ∧ b.stepAt n = b) ∨
    (∃ s t, b[n]? = some s ∧ step s = .next t ∧ b.stepAt n = b.set n t) := by
  cases h : b[n]? with
  | none => exact .inl ⟨rfl, by simp [Bank.stepAt, h]⟩
  | some s =>
    obtain ⟨t, ht⟩ := step_next s
    exact .inr ⟨s, t, rfl, ht, by simp [Bank.stepAt, h, ht]⟩

/-- A run whose first step answers `t` goes on from `t`. -/
theorem run_succ {s t : State} (h : step s = .next t) (n : Nat) : run (n + 1) s = run n t := by
  simp [run, h]

end Sys2Proof.Machine
end

