-- ==== Sys2Proof/Laws/Hex.lean ====
section
/-! SUPPORT. The hex layer: digits, prefixes and pairs. -/

namespace Sys2Proof.Machine

/-- A digit the encoder writes is read back, in either case. -/
@[simp] theorem hexVal_hexChar (c : HexCase) (v : BitVec 4) : hexVal (hexChar c v) = some v := by
  cases c <;> revert v <;> decide

@[simp] theorem hexPair_length (c : HexCase) (b : Byte) : (hexPair c b).length = 2 := rfl

@[simp] theorem hexEncode_nil (c : HexCase) : hexEncode c [] = [] := rfl

@[simp] theorem hexEncode_cons (c : HexCase) (b : Byte) (s : List Byte) :
    hexEncode c (b :: s) = hexChar c (b.extractLsb' 4 4) :: hexChar c (b.extractLsb' 0 4) :: hexEncode c s := rfl

@[simp] theorem nibbles_append (b : Byte) : (b.extractLsb' 4 4 ++ b.extractLsb' 0 4 : Byte) = b := by
  revert b; decide

theorem hexPrefix_length_le (t : List Byte) : (hexPrefix t).length ≤ t.length := by
  induction t with
  | nil => simp [hexPrefix]
  | cons c t ih =>
    unfold hexPrefix
    split <;> simp
    exact ih

theorem pairNibbles_length (d : List (BitVec 4)) : (pairNibbles d).length = d.length / 2 := by
  induction d using pairNibbles.induct with
  | case1 a b rest ih => simp [pairNibbles, ih]; omega
  | case2 a => simp [pairNibbles]
  | case3 => rfl

theorem asciiInterior_length (raw : List Byte) : (asciiInterior raw).length = raw.length - 3 := by
  unfold asciiInterior
  split
  · simp; omega
  · simp; omega

/-- No payload is longer than the raw bytes it is read from. -/
theorem payload_length_le (v : Variant) (raw : List Byte) : (payload v raw).length ≤ raw.length := by
  cases v with
  | rtu => exact Nat.le_refl _
  | ascii =>
    have h1 := hexPrefix_length_le (asciiInterior raw)
    have h2 := asciiInterior_length raw
    simp only [payload, hexPrefixDecode, pairNibbles_length]
    omega

end Sys2Proof.Machine
end

