-- ==== Sys2Proof/Laws/PerInstr.lean ====
section
/-! SUPPORT. The family RoundTrip: what is said of every operation as syntax, one lemma per constructor. -/

namespace Sys2Proof.Laws.RoundTrip

/-- The command that presents the operation has the operation's select code in `op`, and its one-word form read back gives
the same code and variant (spec/30_encoding.md R96, R102). -/
def Statement (i : Instr) : Prop :=
  (encode i).op = opCode i ∧ (commandOfWord (encode i).tableWord).op = (encode i).op ∧
    (commandOfWord (encode i).tableWord).variant = (encode i).variant

/-- Packing a code and a variant bit into a word and reading them back. -/
theorem word_roundTrip (op : BitVec 4) (v : BitVec 1) :
    (commandOfWord (bareCommand op v).tableWord).op = op ∧ (commandOfWord (bareCommand op v).tableWord).variant = v := by
  revert op v; decide

theorem decode (v : Variant) (bytes : List Byte) : Statement (.decode v bytes) :=
  ⟨rfl, word_roundTrip _ _⟩

theorem empty : Statement .empty :=
  ⟨rfl, word_roundTrip _ _⟩

theorem size : Statement .size :=
  ⟨rfl, word_roundTrip _ _⟩

theorem data : Statement .data :=
  ⟨rfl, word_roundTrip _ _⟩

theorem serverAddress : Statement .serverAddress :=
  ⟨rfl, word_roundTrip _ _⟩

theorem pdu : Statement .pdu :=
  ⟨rfl, word_roundTrip _ _⟩

theorem checksum : Statement .checksum :=
  ⟨rfl, word_roundTrip _ _⟩

theorem rawSize : Statement .rawSize :=
  ⟨rfl, word_roundTrip _ _⟩

theorem rawData : Statement .rawData :=
  ⟨rfl, word_roundTrip _ _⟩

theorem lrc8 (bytes : List Byte) : Statement (.lrc8 bytes) :=
  ⟨rfl, word_roundTrip _ _⟩

theorem crc16 (bytes : List Byte) : Statement (.crc16 bytes) :=
  ⟨rfl, word_roundTrip _ _⟩

theorem matchesTrailer : Statement .matchesTrailer :=
  ⟨rfl, word_roundTrip _ _⟩

theorem encode (v : Variant) (addr : Byte) (p : Pdu) (delim : Byte) : Statement (.encode v addr p delim) :=
  ⟨rfl, word_roundTrip _ _⟩

end Sys2Proof.Laws.RoundTrip
end

