-- ==== Sys2Proof/Laws/Units.lean ====
section
/-! SUPPORT. The views of a unit whose payload is known to split into data region and trailer. -/

namespace Sys2Proof.Machine

section splits
variable {u : SerialAdu} {d trailer : List Byte}

theorem SerialAdu.splitsAs.length_eq (h : u.splitsAs d trailer) :
    u.payload.length = d.length + trailerWidth u.variant := by
  rw [h.1, List.length_append, h.2]

theorem SerialAdu.splitsAs.logicalSize_eq (h : u.splitsAs d trailer) : u.logicalSize = d.length := by
  simp [SerialAdu.logicalSize, h.length_eq]

theorem SerialAdu.splitsAs.dataRegion_eq (h : u.splitsAs d trailer) : u.dataRegion = d := by
  simp [SerialAdu.dataRegion, h.logicalSize_eq, h.1]

theorem SerialAdu.splitsAs.firstCause_two (h : u.splitsAs d trailer) : firstCause 2 u = none :=
  Sys2Proof.Machine.firstCause_two (by have := h.length_eq; omega)

theorem SerialAdu.splitsAs.trailer8_eq {x : Byte} (h : u.splitsAs d [x]) : u.trailer8 = x := by
  simp [SerialAdu.trailer8, SerialAdu.payloadByte, h.1]

theorem SerialAdu.splitsAs.trailer16_eq {x y : Byte} (h : u.splitsAs d [x, y]) : u.trailer16 = x ++ y := by
  simp [SerialAdu.trailer16, SerialAdu.payloadByte, h.1]

theorem SerialAdu.splitsAs.address_eq {a : Byte} (h : u.splitsAs (a :: d) trailer) : u.payloadByte 0 = a := by
  simp [SerialAdu.payloadByte, h.1]

theorem SerialAdu.splitsAs.pdu_eq {a fc : Byte} (h : u.splitsAs (a :: fc :: d) trailer) :
    u.pduOf = { fc := fc, pdata := d } := by
  simp [SerialAdu.pduOf, SerialAdu.payloadByte, h.1, h.dataRegion_eq]

end splits

/-- Two bytes joined, as a number: the first is the high byte (spec/30_encoding.md R87). -/
theorem joined_toNat (x y : Byte) : (x ++ y : Half).toNat = x.toNat * 256 + y.toNat := by
  rw [BitVec.toNat_append, Nat.shiftLeft_eq, Nat.mul_comm, ← Nat.two_pow_add_eq_or_of_lt (i := 8) (by omega)]

/-- A 16-bit value equals two joined bytes exactly when its own bytes are these. -/
theorem eq_joined_iff (o : Half) (x y : Byte) :
    o = x ++ y ↔ o.extractLsb' 8 8 = x ∧ o.extractLsb' 0 8 = y := by
  have h := joined_toNat x y
  have hx := x.isLt
  have hy := y.isLt
  have ho := o.isLt
  rw [← BitVec.toNat_inj, h, ← BitVec.toNat_inj, ← BitVec.toNat_inj]
  simp only [BitVec.extractLsb'_toNat, Nat.shiftRight_eq_div_pow]
  omega

end Sys2Proof.Machine
end

