-- ==== Sys2Proof/Laws/WellFormed.lean ====
section
/-! SUPPORT. The length of a frame, and that WellFormed makes the same length test as the machine. -/

namespace Sys2Proof.Machine

theorem hexEncode_length (c : HexCase) (s : List Byte) : (hexEncode c s).length = 2 * s.length := by
  induction s with
  | nil => rfl
  | cons b s ih => simp [ih]; omega

/-- The formula of WellFormed is the length of the frame ENCODE answers (R192, R193). -/
theorem encodeFrame_length (c : HexCase) (v : Variant) (addr : Byte) (p : Pdu) (delim : Byte) :
    (encodeFrame c v addr p delim).length = encodedLength v p := by
  cases v with
  | rtu => simp [encodeFrame, frameBody, crcTrailer, encodedLength]
  | ascii => simp [encodeFrame, frameBody, hexEncode_length, encodedLength]; omega

/-- A pure operation is well formed exactly when the machine admits it by length. -/
theorem wellFormed_iff_pureLength {i : Instr} (h : isPure i = true) (c : HexCase) (m : Nat) :
    i.wellFormed m = true ↔ pureLength c i ≤ m := by
  cases i with
  | lrc8 bytes => simp [Instr.wellFormed, pureLength]
  | crc16 bytes => simp [Instr.wellFormed, pureLength]
  | encode v a p d => simp [Instr.wellFormed, pureLength, encodeFrame_length]
  | _ => cases h

end Sys2Proof.Machine
end

