-- ==== Sys2Proof/Tests/Slice0.lean ====
section
/-! SUPPORT. The model's own tests. Expected values are those of spec/95_test_vectors.md (S, V, T and P numbers) and of
the encodings of spec/30_encoding.md R96 and R102, written out; then one witness per statement that has hypotheses. -/

namespace Sys2Proof.Tests

open Sys2Proof Sys2Proof.Machine

/-! ### Small states -/

/-- An instance with upper-case letters and `MAX_LEN` 32. -/
def small (u : Option SerialAdu) (f : Option FaultCause) : State :=
  { unit := u, fault := f, params := { hexCase := .upper, maxLen := 32 }, inbox := [], response := none }

def fresh : State := small none none
def heldRtu (raw : List Byte) : State := small (some { variant := .rtu, raw := raw }) none
def heldAscii (raw : List Byte) : State := small (some { variant := .ascii, raw := raw }) none

/-- What a step gave back, and the fault record after it. -/
def got : Host.Outcome State Fault Refusal → Option Response × Option FaultCause
  | .next t => (t.response, t.fault)
  | .fault _ => (none, none)
  | .refused _ => (none, none)

/-- V30's frame. -/
def goodRtu : List Byte := [0x01, 0x03, 0x00, 0x00, 0x00, 0x01, 0x84, 0x0A]

/-- V31's frame, `":010300000001FB\r\n"`. -/
def goodAscii : List Byte :=
  [0x3A, 0x30, 0x31, 0x30, 0x33, 0x30, 0x30, 0x30, 0x30, 0x30, 0x30, 0x30, 0x31, 0x46, 0x42, 0x0D, 0x0A]

/-- V33's frame, `":0103000G0001FB\r\n"`. -/
def brokenAscii : List Byte :=
  [0x3A, 0x30, 0x31, 0x30, 0x33, 0x30, 0x30, 0x30, 0x47, 0x30, 0x30, 0x30, 0x31, 0x46, 0x42, 0x0D, 0x0A]

/-! ### WellFormed: one ill-formed term for each check, which the check refuses -/

theorem test_wellFormed_decode : Instr.wellFormed 1 (.decode .rtu [1, 2]) = false := by decide
theorem test_wellFormed_lrc8 : Instr.wellFormed 1 (.lrc8 [1, 2]) = false := by decide
theorem test_wellFormed_crc16 : Instr.wellFormed 1 (.crc16 [1, 2]) = false := by decide
theorem test_wellFormed_encode :
    Instr.wellFormed 3 (.encode .rtu 0 ⟨0, []⟩ 0) = false ∧ Instr.wellFormed 4 (.encode .rtu 0 ⟨0, []⟩ 0) = true ∧
      Instr.wellFormed 8 (.encode .ascii 0 ⟨0, []⟩ 0) = false ∧ Instr.wellFormed 9 (.encode .ascii 0 ⟨0, []⟩ 0) = true := by
  decide

/-! ### Decoding: words written out from R96 (op in bits 3 to 0) and R102 (variant in bit 4, Rtu = 1) -/

theorem test_decode_decoder_words :
    decodeTableWord 8 0b00000000 = some (.decode .ascii []) ∧ decodeTableWord 8 0b00010000 = some (.decode .rtu []) ∧
      decodeTableWord 8 0b00000001 = some .empty ∧ decodeTableWord 8 0b00000010 = some .size ∧
      decodeTableWord 8 0b00000011 = some .data ∧ decodeTableWord 8 0b00000100 = some .serverAddress ∧
      decodeTableWord 8 0b00000101 = some .pdu ∧ decodeTableWord 8 0b00000110 = some .checksum ∧
      decodeTableWord 8 0b00000111 = some .rawSize ∧ decodeTableWord 8 0b00001000 = some .rawData := by decide
theorem test_decode_checksum_words :
    decodeTableWord 8 0b00001001 = some (.lrc8 []) ∧ decodeTableWord 8 0b00001010 = some (.crc16 []) ∧
      decodeTableWord 8 0b00001011 = some .matchesTrailer := by decide
theorem test_decode_encoder_words :
    decodeTableWord 8 0b00001100 = some (.encode .ascii 0 ⟨0, []⟩ 0) ∧
      decodeTableWord 8 0b00011100 = some (.encode .rtu 0 ⟨0, []⟩ 0) := by decide
/-- V80. -/
theorem test_decode_reserved_words :
    decodeTableWord 8 0b00001101 = none ∧ decodeTableWord 8 0b00001110 = none ∧ decodeTableWord 8 0b00001111 = none := by
  decide
/-- Every typed operand of a command reaches the operation. -/
theorem test_decode_operands :
    decode { op := 0xC, variant := 1, bytes := [9], addr := 0x11, fc := 0x03, pdata := [0x00, 0x6B], delim := 0x3B } =
        .ok (.encode .rtu 0x11 ⟨0x03, [0x00, 0x6B]⟩ 0x3B) ∧
      decode { op := 0x0, variant := 1, bytes := [9], addr := 0x11, fc := 0x03, pdata := [0x00], delim := 0x3B } =
        .ok (.decode .rtu [9]) := ⟨rfl, rfl⟩
/-- The words of the encoder, for the two instructions whose variant bit is set. -/
theorem test_encode_words :
    (encode (.decode .rtu [])).tableWord = 0b00010000#8 ∧ (encode (.encode .rtu 0 ⟨0, []⟩ 0)).tableWord = 0b00011100#8 ∧
      (encode .matchesTrailer).tableWord = 0b00001011#8 := by decide

/-! ### The generators -/

/-- T1: the eight bit steps of byte 01 from FFFF. -/
theorem test_crcBit_trace :
    crcBit 0xFFFF true = 0xFFFE ∧ crcBit 0xFFFE false = 0x7FF9 ∧ crcBit 0x7FF9 false = 0xFFF2 ∧
      crcBit 0xFFF2 false = 0x7FE1 ∧ crcBit 0x7FE1 false = 0xFFC2 ∧ crcBit 0xFFC2 false = 0x7F81 ∧
      crcBit 0x7F81 false = 0xFF02 ∧ crcBit 0xFF02 false = 0x7E01 := by decide
/-- T2: the register after each byte of V1. -/
theorem test_crcByte_trace :
    crcByte 0xFFFF 0x01 = 0x7E01 ∧ crcByte 0x7E01 0x03 = 0x0284 ∧ crcByte 0x0284 0x00 = 0x040F ∧
      crcByte 0x040F 0x00 = 0x8F1B ∧ crcByte 0x8F1B 0x00 = 0x9821 ∧ crcByte 0x9821 0x01 = 0x2150 := by decide +kernel
/-- V1, V12: register, `crc_std`, `crc_out`. -/
theorem test_crc_values :
    (crcReg [0x01, 0x03, 0x00, 0x00, 0x00, 0x01], crcStd [0x01, 0x03, 0x00, 0x00, 0x00, 0x01],
        crcOut [0x01, 0x03, 0x00, 0x00, 0x00, 0x01]) = (0x2150#16, 0x0A84#16, 0x840A#16) ∧
      (crcReg [0x11, 0x03, 0x00, 0x6B, 0x00, 0x03], crcStd [0x11, 0x03, 0x00, 0x6B, 0x00, 0x03],
        crcOut [0x11, 0x03, 0x00, 0x6B, 0x00, 0x03]) = (0x6EE1#16, 0x8776#16, 0x7687#16) := by decide +kernel
/-- V17, V21, V23, V25. -/
theorem test_lrc_values :
    lrc [0x01, 0x03, 0x00, 0x00, 0x00, 0x01] = 0xFB ∧ lrc [0x80, 0x80] = 0x00 ∧ lrc [0x7F, 0x01] = 0x80 ∧
      lrc [0x11, 0x03, 0x00, 0x6B, 0x00, 0x03] = 0x7E := by decide

/-! ### One step of each operation -/

/-- V31's payload after DECODE, V82: DECODE itself answers no value. -/
theorem test_decode_loads :
    exec (.decode .ascii goodAscii) fresh =
      .next { heldAscii goodAscii with response := some .loaded } := rfl
theorem test_decode_payload :
    payload .ascii goodAscii = [0x01, 0x03, 0x00, 0x00, 0x00, 0x01, 0xFB] ∧
      payload .ascii brokenAscii = [0x01, 0x03, 0x00] := by decide +kernel
/-- V30, V40, V47. -/
theorem test_empty :
    got (exec .empty (heldRtu goodRtu)) = (some (.bit false), none) ∧ got (exec .empty (heldRtu [])) = (some (.bit true), none) ∧
      got (exec .empty (heldAscii [0x3A, 0x30, 0x0D, 0x0A])) = (some (.bit true), none) := by decide +kernel
/-- V30, V33, V42. -/
theorem test_size :
    got (exec .size (heldRtu goodRtu)) = (some (.number 6), none) ∧
      got (exec .size (heldAscii brokenAscii)) = (some (.number 2), none) ∧
      got (exec .size (heldRtu [0xFF, 0xFF])) = (some (.number 0), none) := by decide +kernel
/-- V40, V41. -/
theorem test_size_faults :
    got (exec .size (heldRtu [])) = (some (.fault .emptyUnit), some .emptyUnit) ∧
      got (exec .size (heldRtu [0x05])) = (some (.fault .shortUnit), some .shortUnit) := by decide +kernel
/-- V31, V50. -/
theorem test_data :
    got (exec .data (heldAscii goodAscii)) = (some (.bytes [0x01, 0x03, 0x00, 0x00, 0x00, 0x01]), none) ∧
      got (exec .data (heldAscii [0x3A, 0x30, 0x30, 0x0D, 0x0A])) = (some (.bytes []), none) := by decide +kernel
/-- V45, V42. -/
theorem test_serverAddress :
    got (exec .serverAddress (heldRtu [0xF7, 0x03, 0x07, 0x81])) = (some (.byte 0xF7), none) ∧
      got (exec .serverAddress (heldRtu [0xFF, 0xFF])) = (some (.fault .noAddress), some .noAddress) := by decide +kernel
/-- V30, V45. -/
theorem test_pdu :
    got (exec .pdu (heldRtu goodRtu)) = (some (.pdu ⟨0x03, [0x00, 0x00, 0x00, 0x01]⟩), none) ∧
      got (exec .pdu (heldRtu [0xF7, 0x03, 0x07, 0x81])) = (some (.pdu ⟨0x03, []⟩), none) := by decide +kernel
/-- V44, P4's first run. -/
theorem test_pdu_faults :
    got (exec .pdu (heldRtu [0x05, 0x7F, 0x43])) = (some (.fault .noFunctionCode), some .noFunctionCode) ∧
      got (exec .serverAddress fresh) = (some (.fault .noUnit), some .noUnit) := by decide +kernel
/-- V30, V31. -/
theorem test_checksum :
    got (exec .checksum (heldRtu goodRtu)) = (some (.half 0x840A), none) ∧
      got (exec .checksum (heldAscii goodAscii)) = (some (.byte 0xFB), none) := by decide +kernel
/-- V31, V47. -/
theorem test_rawSize :
    got (exec .rawSize (heldAscii goodAscii)) = (some (.number 17), none) ∧
      got (exec .rawSize (heldAscii [0x3A, 0x30, 0x0D, 0x0A])) = (some (.number 4), none) := by decide +kernel
/-- R128's example. -/
theorem test_rawData : got (exec .rawData (heldRtu [0x05, 0x7F, 0x43])) = (some (.bytes [0x05, 0x7F, 0x43]), none) := by
  decide +kernel
/-- V18, V24. -/
theorem test_lrc8 :
    got (exec (.lrc8 []) fresh) = (some (.byte 0x00), none) ∧
      got (exec (.lrc8 [0xFF, 0xFF, 0xFF]) fresh) = (some (.byte 0x03), none) := by decide +kernel
/-- V2, V8, V10. -/
theorem test_crc16 :
    got (exec (.crc16 []) fresh) = (some (.half 0xFFFF), none) ∧
      got (exec (.crc16 [0xFF, 0xFF]) fresh) = (some (.half 0x0000), none) ∧
      got (exec (.crc16 [0x31, 0x32, 0x33, 0x34, 0x35, 0x36, 0x37, 0x38, 0x39]) fresh) = (some (.half 0x374B), none) := by
  decide +kernel
/-- V30, V38, V43. -/
theorem test_matches_rtu :
    got (exec .matchesTrailer (heldRtu goodRtu)) = (some (.bit true), none) ∧
      got (exec .matchesTrailer (heldRtu [0x01, 0x03, 0x00, 0x00, 0x00, 0x01, 0x0A, 0x84])) = (some (.bit false), none) ∧
      got (exec .matchesTrailer (heldRtu [0x12, 0x34])) = (some (.bit false), none) := by decide +kernel
/-- V31, V33. -/
theorem test_matches_ascii :
    got (exec .matchesTrailer (heldAscii goodAscii)) = (some (.bit true), none) ∧
      got (exec .matchesTrailer (heldAscii brokenAscii)) = (some (.bit false), none) := by decide +kernel
/-- V61, V62: both hex cases. -/
theorem test_encode_ascii :
    got (exec (encodeDefault .ascii 0x01 ⟨0x03, [0x00, 0x00, 0x00, 0x01]⟩) fresh) = (some (.bytes goodAscii), none) ∧
      encodeFrame .lower .ascii 0x01 ⟨0x03, [0x00, 0x00, 0x00, 0x01]⟩ 0x0A =
        [0x3A, 0x30, 0x31, 0x30, 0x33, 0x30, 0x30, 0x30, 0x30, 0x30, 0x30, 0x30, 0x31, 0x66, 0x62, 0x0D, 0x0A] := by
  decide +kernel
/-- V60, V69. -/
theorem test_encode_rtu :
    got (exec (.encode .rtu 0x01 ⟨0x03, [0x00, 0x00, 0x00, 0x01]⟩ 0x55) fresh) = (some (.bytes goodRtu), none) ∧
      got (exec (.encode .ascii 0xFF ⟨0xFF, []⟩ 0x3B) fresh) =
        (some (.bytes [0x3A, 0x46, 0x46, 0x46, 0x46, 0x30, 0x32, 0x0D, 0x3B]), none) := by decide +kernel
/-- V81, and the limit of R219 at its two sides. -/
theorem test_refusals :
    got (exec (.crc16 []) (small none (some .emptyUnit))) = (some (.refused .faulted), some .emptyUnit) ∧
      got (exec (.lrc8 (List.replicate 33 0)) fresh) = (some (.refused .tooLong), none) ∧
      got (exec (.lrc8 (List.replicate 32 0)) fresh) = (some (.byte 0), none) := by decide +kernel
/-- A step: P4's reset after the fault, V80, and a table word run first. -/
theorem test_step :
    got (step { small none (some .noUnit) with inbox := [.reset] }) = (none, none) ∧
      got (step (fresh.withFetchWord 8 0x0D)) = (some (.refused .reservedOp), none) ∧
      got (step (fresh.withFetchWord 8 0x0A)) = (some (.half 0xFFFF), none) := by decide +kernel

/-- Every row of the table, run as the first operation after reset, is performed. -/
theorem test_reset_runs_every_row :
    (List.range 13).all (fun w => match step (State.reset.withFetchWord 8 w) with
      | .next _ => true
      | .fault _ => false
      | .refused _ => false) = true := by decide
/-- V83 at reset itself, whatever `MAX_LEN` is. -/
theorem test_reset_crc16 : got (step (State.reset.withFetchWord 8 0x0A)) = (some (.half 0xFFFF), none) := by decide +kernel

/-! ### Witnesses: concrete states that meet each statement's hypotheses together -/

/-- The five situations of the readers' statements: faulted, no unit, empty payload, short payload, payload at least the
trailer's width (at its boundary). -/
theorem witness_readers :
    (small none (some .noUnit)).fault = some .noUnit ∧
    (fresh.fault = none ∧ fresh.unit = none) ∧
    ((heldRtu []).unit = some ⟨.rtu, []⟩ ∧ SerialAdu.payload ⟨.rtu, []⟩ = []) ∧
    ((heldRtu [5]).unit = some ⟨.rtu, [5]⟩ ∧ SerialAdu.payload ⟨.rtu, [5]⟩ ≠ [] ∧
      (SerialAdu.payload ⟨.rtu, [5]⟩).length < trailerWidth .rtu) ∧
    ((heldRtu [5, 6]).unit = some ⟨.rtu, [5, 6]⟩ ∧ trailerWidth .rtu ≤ (SerialAdu.payload ⟨.rtu, [5, 6]⟩).length) ∧
    (∀ s ∈ [heldRtu [], heldRtu [5], heldRtu [5, 6]], s.fault = none) := by decide

/-- The splits of DATA, SERVER_ADDRESS, PDU, CHECKSUM and MATCHES, for data regions of 0, 1 and 2 bytes, both variants. -/
theorem witness_splits :
    SerialAdu.splitsAs ⟨.rtu, [5, 6]⟩ [] [5, 6] ∧ SerialAdu.splitsAs ⟨.rtu, [1, 5, 6]⟩ [1] [5, 6] ∧
      SerialAdu.splitsAs ⟨.rtu, [1, 2, 5, 6]⟩ [1, 2] [5, 6] ∧
      SerialAdu.splitsAs ⟨.ascii, [0x3A, 0x30, 0x31, 0x0D, 0x0A]⟩ [] [1] ∧
      SerialAdu.splitsAs ⟨.ascii, goodAscii⟩ [0x01, 0x03, 0x00, 0x00, 0x00, 0x01] [0xFB] ∧
      (heldRtu [1, 2, 5, 6]).fault = none ∧ (heldAscii goodAscii).fault = none := by
  unfold SerialAdu.splitsAs; decide +kernel

theorem witness_StepRunsTheDecodedCommand :
    (fresh.withFetchWord 8 0x0A).inbox = .command (commandOfTableBits 8 0x0A) :: [] ∧
      decode (commandOfTableBits 8 0x0A) = .ok (.crc16 []) ∧ decodeTableWord 8 0x0A = some (.crc16 []) := ⟨rfl, rfl, rfl⟩

theorem witness_ReservedCodesAreRefusedWithoutEffect :
    (fresh.issueFirst (bareCommand 0xD 0)).inbox = .command (bareCommand 0xD 0) :: [] ∧
      13 ≤ (bareCommand 0xD 0).op.toNat ∧ (bareCommand 0xC 0).op.toNat < 13 := by decide

theorem witness_IdleBlockKeepsItsState : fresh.inbox = [] := rfl

theorem witness_ResetStateAcceptsEveryOperation :
    Instr.wellFormed State.reset.params.maxLen (.crc16 []) = true ∧ Instr.crc16 [] ∉ unitReaders ∧
      Instr.empty ∈ unitReaders := ⟨by simp [Instr.wellFormed], by decide, by decide⟩

theorem witness_ResetClearsFaultAndUnit :
    ({ small none (some .noUnit) with inbox := [.reset] } : State).inbox = .reset :: [] := rfl

theorem witness_EveryStepKeepsTheInvariant :
    (heldRtu [5]).Inv ∧ (small (some ⟨.rtu, []⟩) (some .emptyUnit)).Inv := by
  refine ⟨⟨?_, ?_, ?_⟩, ⟨?_, ?_, ?_⟩⟩ <;> intro x h <;> cases h
  · decide
  · decide
  · exact ⟨_, rfl, rfl⟩

theorem witness_OnlyDecodeAndResetWriteTheUnit :
    (∃ t, step (fresh.issueFirst (encode (.decode .rtu [5]))) = .next t ∧ t.unit ≠ none) ∧
      (∃ t, step { heldRtu [5] with inbox := [.reset] } = .next t ∧ t.unit ≠ (heldRtu [5]).unit) :=
  ⟨⟨_, rfl, by decide⟩, ⟨_, rfl, by decide⟩⟩

theorem witness_OnlyFaultEntryAndResetWriteTheFault :
    (∃ t, step (fresh.issueFirst (encode .size)) = .next t ∧ t.fault ≠ none) ∧
      (∃ t, step { small none (some .noUnit) with inbox := [.reset] } = .next t ∧ t.fault ≠ some .noUnit) :=
  ⟨⟨_, rfl, by decide⟩, ⟨_, rfl, by decide⟩⟩

theorem witness_FaultedBlockRefusesEveryOperation : (small none (some .noUnit)).fault = some .noUnit := rfl

theorem witness_FaultIsFinalUntilReset :
    ∃ s t : State, s.fault = some .noUnit ∧ HostEvent.reset ∉ s.inbox.take 2 ∧ run 2 s = .next t ∧ s.inbox ≠ [] :=
  ⟨{ small none (some .noUnit) with inbox := [.command (encode .empty), .command (encode (.decode .rtu [1]))] }, _,
    rfl, by decide, rfl, by decide⟩

theorem witness_ParametersNeverChange :
    ∃ t, run 2 { fresh with inbox := [.command (encode .size), .reset] } = .next t := ⟨_, rfl⟩

theorem witness_FaultEntryIsPrecise :
    ∃ t, (heldRtu [5]).fault = none ∧ exec .data (heldRtu [5]) = .next t ∧ t.fault = some .shortUnit := ⟨_, rfl, rfl, rfl⟩

theorem witness_CausesFollowTheTable : mayRaise .pdu .noFunctionCode = true ∧ mayRaise .size .noAddress = false := by decide

theorem witness_CausesHoldUnderTheirConditions :
    FaultCause.explains .noUnit none ∧ FaultCause.explains .emptyUnit (some ⟨.rtu, []⟩) ∧
      FaultCause.explains .shortUnit (some ⟨.rtu, [5]⟩) ∧ FaultCause.explains .noAddress (some ⟨.rtu, [5, 6]⟩) ∧
      FaultCause.explains .noFunctionCode (some ⟨.rtu, [5, 6, 7]⟩) :=
  ⟨rfl, ⟨_, rfl, rfl⟩, ⟨_, rfl, by decide⟩, ⟨_, rfl, rfl⟩, ⟨_, rfl, rfl⟩⟩

/-- The length limit of DECODE, LRC8 and CRC16 at its two sides, `MAX_LEN` being 32. -/
theorem witness_lengths :
    (List.replicate 32 (0 : Byte)).length ≤ fresh.params.maxLen ∧ fresh.params.maxLen < (List.replicate 33 (0 : Byte)).length := by
  decide

/-- The length limit of ENCODE at its two sides, both variants. -/
theorem witness_EncodeAnswersTheFrame :
    encodedLength .rtu ⟨0, List.replicate 28 0⟩ ≤ fresh.params.maxLen ∧
      fresh.params.maxLen < encodedLength .rtu ⟨0, List.replicate 29 0⟩ ∧
      encodedLength .ascii ⟨0, List.replicate 11 0⟩ ≤ fresh.params.maxLen ∧
      fresh.params.maxLen < encodedLength .ascii ⟨0, List.replicate 12 0⟩ := by decide

/-- R121's clauses on the ASCII payload: four raw bytes, and interiors that begin with two digits or do not. -/
theorem witness_EmptyAnswersWhetherThePayloadIsEmpty :
    payload .ascii [0x3A, 0x30, 0x0D, 0x0A] = [] ∧ payload .ascii [0x3A, 0x30, 0x47, 0x0D, 0x0A] = [] ∧
      payload .ascii [0x3A, 0x30, 0x31, 0x0D, 0x0A] = [0x01] := by decide

theorem witness_ReadersChangeOnlyFaultAndResponse :
    Instr.size ∈ unitReaders ∧ (∃ t, exec .size (heldRtu goodRtu) = .next t) := ⟨by decide, ⟨_, rfl⟩⟩

theorem witness_PureOperationsTouchNoState :
    isPure (.crc16 [1]) = true ∧ fresh.params = (heldRtu goodRtu).params ∧ fresh.fault = (heldRtu goodRtu).fault ∧
      (∃ t, exec (.crc16 [1]) fresh = .next t) ∧ (∃ t, exec (.crc16 [1]) (heldRtu goodRtu) = .next t) :=
  ⟨rfl, rfl, rfl, ⟨_, rfl⟩, ⟨_, rfl⟩⟩

theorem witness_DecodeChangesOnlyUnitAndResponse : ∃ t, exec (.decode .rtu [5]) fresh = .next t := ⟨_, rfl⟩

theorem witness_ReadsHaveNoSideEffect :
    Instr.empty ∈ unitReaders ∧ (∃ t, exec .empty (heldRtu goodRtu) = .next t ∧ t.fault = none) ∧
      (∃ t', exec .pdu (heldRtu goodRtu) = .next t') := ⟨by decide, ⟨_, rfl, rfl⟩, ⟨_, rfl⟩⟩

/-- `h` at a non-hex byte (V33's interior) and at the end of an all-hex sequence. -/
theorem witness_HexPrefixDecodeTakesWholePairs :
    (∀ c ∈ ([0x30, 0x31, 0x32, 0x47] : List Byte).take 3, isHex c = true) ∧ isHex 0x47 = false ∧
      (∀ c ∈ ([0x30, 0x31] : List Byte).take 2, isHex c = true) ∧ ([0x30, 0x31] : List Byte)[2]? = none := by decide

theorem witness_PayloadLengths : ∀ c ∈ asciiInterior goodAscii, isHex c = true := by decide

theorem witness_FramingBytesAreNotExamined :
    ∃ t1 t2 : State,
      exec .size { fresh with unit := some ⟨.ascii, [0x3A] ++ [0x30, 0x31] ++ [0x0D, 0x0A]⟩ } = .next t1 ∧
      exec .size { fresh with unit := some ⟨.ascii, [0x58] ++ [0x30, 0x31] ++ [0x59, 0x5A]⟩ } = .next t2 := ⟨_, _, rfl, rfl⟩

theorem witness_LrcLaws :
    ([1, 2] : List Byte).Perm [2, 1] ∧ ([1, 2] : List Byte)[0]? = some 1 ∧ (3 : Byte) ≠ 1 ∧
      (1 + 2 : Byte) = 3 + 0 ∧ ([1, 2] : List Byte)[1]? = some 2 := by decide

theorem witness_CrcIsLinearOverXor : ([1, 2] : List Byte).length = 2 ∧ ([3, 4] : List Byte).length = 2 := by decide

theorem witness_SingleBitErrorsAreDetected :
    (heldRtu goodRtu).fault = none ∧
      exec .matchesTrailer (heldRtu goodRtu) = .next { heldRtu goodRtu with response := some (.bit true) } ∧
      5 < goodRtu.length - 2 ∧ goodRtu[5]? = some 0x01 :=
  ⟨rfl,
    congrArg Host.Outcome.next (show (heldRtu goodRtu).withUnit 2 (fun u => .bit u.matchesFlag) =
      { heldRtu goodRtu with response := some (.bit true) } by decide +kernel),
    by decide, by decide⟩

theorem witness_EncodeThenDecodeGivesBackTheInputs :
    fresh.fault = none ∧ encodedLength .ascii ⟨3, [0, 0, 0, 1]⟩ ≤ fresh.params.maxLen ∧
      encodedLength .rtu ⟨3, [0, 0, 0, 1]⟩ ≤ fresh.params.maxLen := by decide

/-- R196's hypotheses hold of V30 and V31. -/
theorem witness_DecodeThenEncodeReproducesTheFrame :
    (heldRtu goodRtu).fault = none ∧ goodRtu.length ≤ (heldRtu goodRtu).params.maxLen ∧
      wellFormedFrame .upper 0x0A .rtu goodRtu ∧
      (heldAscii goodAscii).fault = none ∧ goodAscii.length ≤ (heldAscii goodAscii).params.maxLen ∧
      wellFormedFrame .upper 0x0A .ascii goodAscii := by
  unfold wellFormedFrame; decide +kernel

theorem witness_CheckedAccessorsNeverFault :
    (heldRtu goodRtu).fault = none ∧
      exec .empty (heldRtu goodRtu) = .next { heldRtu goodRtu with response := some (.bit false) } ∧
      2 ≤ goodRtu.length ∧
      exec .size (heldRtu goodRtu) = .next { heldRtu goodRtu with response := some (.number 6) } := ⟨rfl, rfl, by decide, rfl⟩

/-- V34's tail `zz`, and V35's lone digit `7`. -/
theorem witness_MalformedTailIsNotDetected :
    isHex 0x7A = false ∧ ([0x37] : List Byte).length ≤ 1 := by decide

/-- Instance 1 performs RAW_SIZE on its own unit; the other bank differs in instance 0 alone. -/
theorem witness_InstancesAreIndependent :
    ([fresh, (heldRtu goodRtu).issueFirst (encode .rawSize)] : Bank)[1]? =
        some ((heldRtu goodRtu).issueFirst (encode .rawSize)) ∧
      step ((heldRtu goodRtu).issueFirst (encode .rawSize)) =
        .next { heldRtu goodRtu with response := some (.number 8) } ∧
      ([fresh, (heldRtu goodRtu).issueFirst (encode .rawSize)] : Bank)[1]? =
        ([heldRtu [], (heldRtu goodRtu).issueFirst (encode .rawSize)] : Bank)[1]? ∧
      (0 : Nat) ≠ 1 := ⟨rfl, rfl, rfl, by decide⟩

end Sys2Proof.Tests
end

section
/-! # Proofs of the state family (spec/10_state.md)

The invariant of the block, the two registers' writers, and the independence of instances. -/

namespace Sys2Proof.Machine

/-! ### The invariant, one rule per named update of the state -/

theorem State.inv_of_cleared {s : State} (hu : s.unit = none) (hf : s.fault = none) (hr : s.response = none) :
    s.Inv := by
  simp [State.Inv, State.rawFits, State.faultExplained, State.responseFits, hu, hf, hr]

theorem State.afterReset_inv (s : State) : s.afterReset.Inv :=
  State.inv_of_cleared rfl rfl rfl

/-- The invariant does not speak of what the host has issued. -/
theorem State.withInbox_inv {s : State} (h : s.Inv) (rest : List HostEvent) : (s.withInbox rest).Inv := h

theorem State.respond_inv {s : State} (h : s.Inv) {r : Response} (hr : r.sequenceLength ≤ s.params.maxLen) :
    (s.respond r).Inv := by
  obtain ⟨hraw, hfault, -⟩ := h
  refine ⟨hraw, hfault, fun r' hr' => ?_⟩
  cases hr'
  exact hr

theorem State.refuse_inv {s : State} (h : s.Inv) (r : Rejection) : (s.refuse r).Inv :=
  State.respond_inv (r := .refused r) h (Nat.zero_le _)

theorem State.takeFault_inv {s : State} (h : s.Inv) {c : FaultCause} (hc : c.explains s.unit) :
    (s.takeFault c).Inv := by
  obtain ⟨hraw, -, -⟩ := h
  refine ⟨hraw, fun c' hc' => ?_, fun r hr => ?_⟩
  · cases hc'
    exact hc
  · cases hr
    exact Nat.zero_le _

theorem State.loadUnit_inv {s : State} (hf : s.fault = none) {raw : List Byte} (hl : raw.length ≤ s.params.maxLen)
    (v : Variant) : (s.loadUnit v raw).Inv := by
  refine ⟨fun u hu => ?_, fun c hc => ?_, fun r hr => ?_⟩
  · cases hu
    exact hl
  · rw [State.loadUnit_fault, hf] at hc
    cases hc
  · cases hr
    exact Nat.zero_le _

/-! ### The causes of the unit tests (R129) -/

/-- More tests never change the cause, since the first test that holds decides (R215). -/
theorem firstCause_four_of_firstCause {n : Nat} {u : SerialAdu} {c : FaultCause} (h : firstCause n u = some c) :
    firstCause 4 u = some c := by
  obtain ⟨t, ht, rfl⟩ := Option.map_eq_some_iff.mp h
  exact Option.map_eq_some_iff.mpr ⟨t, (List.take_prefix n unitTests).find?_eq_some ht, rfl⟩

/-- The cause a unit test raises is true of the unit (R211): the lengths of the payload, region by region. -/
theorem explains_of_firstCause {n : Nat} {u : SerialAdu} {c : FaultCause} (h : firstCause n u = some c) :
    c.explains (some u) := by
  have h4 := firstCause_four_of_firstCause h
  by_cases hempty : u.payload.length = 0
  · cases (firstCause_empty (by decide) hempty).symm.trans h4
    exact ⟨u, rfl, hempty⟩
  by_cases hshort : u.payload.length < trailerWidth u.variant
  · cases (firstCause_short (by decide) hempty hshort).symm.trans h4
    exact ⟨u, rfl, by omega, hshort⟩
  by_cases haddr : u.payload.length = trailerWidth u.variant
  · cases (firstCause_noAddress (by decide) haddr).symm.trans h4
    exact ⟨u, rfl, haddr⟩
  by_cases hfc : u.payload.length = trailerWidth u.variant + 1
  · cases (firstCause_noFunctionCode hfc).symm.trans h4
    exact ⟨u, rfl, hfc⟩
  · cases (firstCause_four (by omega)).symm.trans h4

theorem firstCause_mem {n : Nat} {u : SerialAdu} {c : FaultCause} (h : firstCause n u = some c) :
    c ∈ (unitTests.take n).map (·.1) := by
  obtain ⟨t, ht, rfl⟩ := Option.map_eq_some_iff.mp h
  exact List.mem_map_of_mem (List.mem_of_find?_eq_some ht)

theorem mayRaise_noUnit {i : Instr} (hi : i ∈ unitReaders) : mayRaise i .noUnit = true := by
  revert i
  decide

/-- A reader's own tests raise only causes of its row of the table of R212. -/
theorem mayRaise_of_firstCause {i : Instr} (hi : i ∈ unitReaders) {u : SerialAdu} {c : FaultCause}
    (h : firstCause (testsOf i) u = some c) : mayRaise i c = true := by
  have table : ∀ i ∈ unitReaders, ∀ c ∈ (unitTests.take (testsOf i)).map (·.1), mayRaise i c = true := by decide
  exact table i hi c (firstCause_mem h)

/-! ### The lengths of the answers (R219) -/

theorem SerialAdu.dataRegion_length_le (u : SerialAdu) : u.dataRegion.length ≤ u.raw.length :=
  (List.length_take_le' _ _).trans (payload_length_le u.variant u.raw)

theorem SerialAdu.checksumResponse_sequenceLength (u : SerialAdu) : u.checksumResponse.sequenceLength = 0 := by
  unfold SerialAdu.checksumResponse
  split <;> rfl

/-- Every sequence a reader answers is a part of the raw bytes, or decoded from a part of them. -/
theorem answerOf_sequenceLength_le (i : Instr) (u : SerialAdu) : (answerOf i u).sequenceLength ≤ u.raw.length := by
  cases i with
  | data => exact u.dataRegion_length_le
  | pdu => exact (List.drop_sublist 2 _).length_le.trans u.dataRegion_length_le
  | checksum => exact u.checksumResponse_sequenceLength.le.trans (Nat.zero_le _)
  | rawData => exact Nat.le_refl _
  | _ => exact Nat.zero_le _

theorem pureAnswer_sequenceLength_le (c : HexCase) (i : Instr) :
    (pureAnswer c i).sequenceLength ≤ pureLength c i := by
  cases i with
  | encode v addr p delim => exact Nat.le_refl _
  | _ => exact Nat.zero_le _

/-! ### The invariant along a step -/

theorem exec_inv {i : Instr} {s t : State} (hs : s.Inv) (h : exec i s = .next t) : t.Inv := by
  rcases exec_cases i s with ⟨r, e, -⟩ | ⟨-, -, hu, e⟩ | ⟨u, c, -, -, hu, hc, e⟩ | ⟨u, -, -, hu, -, e⟩ |
    ⟨-, -, hl, e⟩ | ⟨v, bytes, -, hf, hl, e⟩ <;> cases e.symm.trans h
  · exact State.refuse_inv hs r
  · exact State.takeFault_inv hs hu
  · exact State.takeFault_inv hs (hu ▸ explains_of_firstCause hc)
  · have ⟨hraw, _, _⟩ := hs
    exact State.respond_inv hs ((answerOf_sequenceLength_le i u).trans (hraw u hu))
  · exact State.respond_inv hs ((pureAnswer_sequenceLength_le _ i).trans hl)
  · exact State.loadUnit_inv hf hl v

/-- Settles O8: each way a step can end keeps the invariant, by the rule of the update it ends with. -/
theorem everyStepKeepsTheInvariant : Obligations.EveryStepKeepsTheInvariant := by
  intro s t hs h
  rcases step_cases s with ⟨-, e⟩ | ⟨rest, -, e⟩ | ⟨c, rest, err, -, -, e⟩ | ⟨c, rest, i, -, -, e⟩
  · cases e.symm.trans h
    exact hs
  · cases e.symm.trans h
    exact State.afterReset_inv _
  · cases e.symm.trans h
    exact State.refuse_inv (State.withInbox_inv hs rest) _
  · exact exec_inv (State.withInbox_inv hs rest) (e.symm.trans h)

/-- Settles O7: the reset state holds no unit, no fault and no response of which the invariant could speak. -/
theorem resetStateMeetsTheInvariant : Obligations.ResetStateMeetsTheInvariant :=
  State.inv_of_cleared rfl rfl rfl

/-! ### Who writes the unit register and the fault record -/

/-- An operation keeps the unit, or it is DECODE and the unit is its operands (R21). -/
theorem exec_unit {i : Instr} {s t : State} (h : exec i s = .next t) :
    t.unit = s.unit ∨ ∃ v bytes, i = .decode v bytes ∧ t.unit = some { variant := v, raw := bytes } := by
  rcases exec_cases i s with ⟨_, e, -⟩ | ⟨-, -, -, e⟩ | ⟨_, _, -, -, -, -, e⟩ | ⟨_, -, -, -, -, e⟩ |
    ⟨-, -, -, e⟩ | ⟨v, bytes, hi, -, -, e⟩ <;> cases e.symm.trans h
  · exact .inl rfl
  · exact .inl rfl
  · exact .inl rfl
  · exact .inl rfl
  · exact .inl rfl
  · exact .inr ⟨v, bytes, hi, rfl⟩

/-- An operation keeps the fault record, or it enters a fault its row of R212 lists, from a state without one. -/
theorem exec_fault {i : Instr} {s t : State} (h : exec i s = .next t) :
    t.fault = s.fault ∨ ∃ c, mayRaise i c = true ∧ s.fault = none ∧ t = s.takeFault c := by
  rcases exec_cases i s with ⟨_, e, -⟩ | ⟨hi, hf, -, e⟩ | ⟨_, c, hi, hf, -, hc, e⟩ | ⟨_, -, -, -, -, e⟩ |
    ⟨-, -, -, e⟩ | ⟨_, _, -, -, -, e⟩ <;> cases e.symm.trans h
  · exact .inl rfl
  · exact .inr ⟨.noUnit, mayRaise_noUnit hi, hf, rfl⟩
  · exact .inr ⟨c, mayRaise_of_firstCause hi hc, hf, rfl⟩
  · exact .inl rfl
  · exact .inl rfl
  · exact .inl rfl

/-- Settles O9: of the four things a step can do, an idle step and a reserved code keep the unit, a reset unloads it, and
an operation that changes it is DECODE. -/
theorem onlyDecodeAndResetWriteTheUnit : Obligations.OnlyDecodeAndResetWriteTheUnit := by
  intro s t h hne
  rcases step_cases s with ⟨-, e⟩ | ⟨rest, hin, e⟩ | ⟨c, rest, err, -, -, e⟩ | ⟨c, rest, i, hin, hdec, e⟩
  · cases e.symm.trans h
    exact absurd rfl hne
  · cases e.symm.trans h
    exact .inl ⟨rest, hin, rfl⟩
  · cases e.symm.trans h
    exact absurd rfl hne
  · rcases exec_unit (e.symm.trans h) with hkeep | ⟨v, bytes, rfl, hunit⟩
    · exact absurd hkeep hne
    · exact .inr ⟨c, rest, v, bytes, hin, hdec, hunit⟩

/-- Settles O10: of the four things a step can do, an idle step and a reserved code keep the record, a reset clears it, and
an operation that changes it enters a fault. -/
theorem onlyFaultEntryAndResetWriteTheFault : Obligations.OnlyFaultEntryAndResetWriteTheFault := by
  intro s t h hne
  rcases step_cases s with ⟨-, e⟩ | ⟨rest, hin, e⟩ | ⟨cmd, rest, err, -, -, e⟩ | ⟨cmd, rest, i, hin, hdec, e⟩
  · cases e.symm.trans h
    exact absurd rfl hne
  · cases e.symm.trans h
    exact .inl ⟨rest, hin, rfl⟩
  · cases e.symm.trans h
    exact absurd rfl hne
  · rcases exec_fault (e.symm.trans h) with hkeep | ⟨c, hmay, hf, ht⟩
    · exact absurd hkeep hne
    · exact .inr ⟨cmd, rest, i, c, hin, hdec, hmay, hf, ht⟩

/-! ### Banks of instances -/

theorem getElem?_stepAt_of_some {b : Bank} {n : Nat} {s t : State} (hs : b[n]? = some s) (ht : step s = .next t) :
    (b.stepAt n)[n]? = some t := by
  rcases stepAt_cases b n with ⟨hnone, -⟩ | ⟨s', t', hs', ht', e⟩
  · cases hnone.symm.trans hs
  · cases hs'.symm.trans hs
    cases ht'.symm.trans ht
    rw [e, List.getElem?_set_self (List.getElem?_eq_some_iff.mp hs).1]

theorem getElem?_stepAt_of_none {b : Bank} {n : Nat} (h : b[n]? = none) : (b.stepAt n)[n]? = none := by
  simp [Bank.stepAt, h]

theorem getElem?_stepAt_of_ne (b : Bank) {n m : Nat} (h : n ≠ m) : (b.stepAt n)[m]? = b[m]? := by
  rcases stepAt_cases b n with ⟨-, e⟩ | ⟨s, t, -, -, e⟩
  · rw [e]
  · rw [e, List.getElem?_set_ne h]

theorem stepAt_length (b : Bank) (n : Nat) : (b.stepAt n).length = b.length := by
  rcases stepAt_cases b n with ⟨-, e⟩ | ⟨s, t, -, -, e⟩
  · rw [e]
  · rw [e, List.length_set]

/-- What stands at `n` after its step depends on what stood there alone. -/
theorem getElem?_stepAt_congr {b b' : Bank} {n : Nat} (h : b[n]? = b'[n]?) :
    (b.stepAt n)[n]? = (b'.stepAt n)[n]? := by
  cases hb : b[n]? with
  | none => rw [getElem?_stepAt_of_none hb, getElem?_stepAt_of_none (h.symm.trans hb)]
  | some s =>
    obtain ⟨t, ht⟩ := step_next s
    rw [getElem?_stepAt_of_some hb ht, getElem?_stepAt_of_some (h.symm.trans hb) ht]

/-- Compared position by position: each of the two is what its own step makes of it, and every other is untouched. -/
theorem stepAt_comm (b : Bank) {n m : Nat} (h : n ≠ m) : (b.stepAt n).stepAt m = (b.stepAt m).stepAt n := by
  refine List.ext_getElem? fun k => ?_
  by_cases hn : k = n
  · subst hn
    rw [getElem?_stepAt_of_ne _ h.symm, getElem?_stepAt_congr (getElem?_stepAt_of_ne b h.symm)]
  by_cases hm : k = m
  · subst hm
    rw [getElem?_stepAt_of_ne _ h, getElem?_stepAt_congr (getElem?_stepAt_of_ne b h)]
  · rw [getElem?_stepAt_of_ne _ (Ne.symm hm), getElem?_stepAt_of_ne _ (Ne.symm hn),
      getElem?_stepAt_of_ne _ (Ne.symm hn), getElem?_stepAt_of_ne _ (Ne.symm hm)]

/-- Settles O59, from the rules about one step of a bank. -/
theorem instancesAreIndependent : Obligations.InstancesAreIndependent := by
  refine ⟨fun b n s t => getElem?_stepAt_of_some, fun b n s hs => ?_, fun b b' n => getElem?_stepAt_congr,
    stepAt_length, fun b n m h => ⟨getElem?_stepAt_of_ne b h, stepAt_comm b h⟩⟩
  obtain ⟨t, ht⟩ := step_next s
  exact ⟨t, ht, getElem?_stepAt_of_some hs ht⟩

end Sys2Proof.Machine
end

section
/-! # Proofs of the memory family (spec/20_memory.md)

What a step does with a command, and what no operation sees: the last response, and for the pure operations the unit and
the events to come too. -/

namespace Sys2Proof.Machine

/-! ### A step on a command -/

/-- The step's rule for a command that selects an operation. -/
theorem step_of_command {s : State} {c : Command} {rest : List HostEvent} {i : Instr}
    (hin : s.inbox = .command c :: rest) (hdec : decode c = .ok i) : step s = exec i (s.withInbox rest) := by
  simp [step, hin, hdec]

/-- A table word stands for an operation exactly when its command selects it. -/
theorem decodeTableWord_eq_some {nbits w : Nat} {i : Instr} :
    decodeTableWord nbits w = some i ↔ decode (commandOfTableBits nbits w) = .ok i := by
  unfold decodeTableWord
  split <;> simp_all

/-- Settles O1: the rule for a command, which a table word's command meets once it is issued first. -/
theorem stepRunsTheDecodedCommand : Obligations.StepRunsTheDecodedCommand := by
  refine ⟨fun s c rest i => step_of_command, fun s nbits w i h => ?_⟩
  exact step_of_command (s.issueFirst_inbox _) (decodeTableWord_eq_some.mp h)

/-! ### The pure operations -/

/-- A pure operation has one response for all states with the same parameters and fault record, and only gives it. -/
theorem exec_pure_eq_respond {i : Instr} (h : isPure i = true) (s : State) :
    ∃ r, ∀ s' : State, s'.params = s.params → s'.fault = s.fault → exec i s' = .next (s'.respond r) := by
  cases hf : s.fault with
  | some c =>
    refine ⟨.refused .faulted, fun s' _ hf' => ?_⟩
    rw [exec_pure h, withLength_of_fault hf']
    rfl
  | none =>
    by_cases hl : pureLength s.params.hexCase i ≤ s.params.maxLen
    · refine ⟨pureAnswer s.params.hexCase i, fun s' hp hf' => ?_⟩
      rw [← hp] at hl ⊢
      rw [exec_pure h, withLength_of_fits hf' hl]
    · refine ⟨.refused .tooLong, fun s' hp hf' => ?_⟩
      rw [← hp] at hl
      rw [exec_pure h, withLength_of_long hf' (Nat.lt_of_not_le hl)]
      rfl

/-- Settles O31: both states, and the two next states, carry the one response of `exec_pure_eq_respond`. -/
theorem pureOperationsTouchNoState : Obligations.PureOperationsTouchNoState := by
  intro i hi s t h
  obtain ⟨r, hr⟩ := exec_pure_eq_respond hi s
  cases (hr s rfl rfl).symm.trans h
  refine ⟨rfl, fun s' t' hp hf h' => ?_⟩
  cases (hr s' hp hf).symm.trans h'
  rfl

/-! ### The last response is never read -/

/-- The admission tests of a reader do not read the last response, and every outcome overwrites it. -/
@[simp] theorem withUnit_respond (s : State) (r : Response) (n : Nat) (f : SerialAdu → Response) :
    (s.respond r).withUnit n f = s.withUnit n f := rfl

/-- The length test does not read the last response either. -/
theorem withLength_respond {s : State} {r : Response} {k : State → State} (hk : k (s.respond r) = k s) (len : Nat) :
    (s.respond r).withLength len k = s.withLength len k := by
  simp [State.withLength, hk]

/-- No operation sees an earlier response. -/
@[simp] theorem exec_respond (i : Instr) (s : State) (r : Response) : exec i (s.respond r) = exec i s := by
  rcases instr_cases i with h | h | ⟨v, bytes, rfl⟩
  · rw [exec_reader h, exec_reader h, withUnit_respond]
  · rw [exec_pure h, exec_pure h, State.respond_params, withLength_respond (State.respond_respond ..)]
  · rw [exec_decode, exec_decode, withLength_respond (State.respond_loadUnit ..)]

/-- A reader that leaves no fault only gives a response. -/
theorem reader_eq_respond {i : Instr} (hi : i ∈ unitReaders) {s t : State} (h : exec i s = .next t)
    (ht : t.fault = none) : ∃ r, t = s.respond r := by
  rw [exec_reader hi] at h
  cases h
  rcases withUnit_cases s (testsOf i) (answerOf i) with ⟨hf, e⟩ | ⟨-, -, e⟩ | ⟨u, c, -, -, -, e⟩ | ⟨u, -, -, -, e⟩ <;>
    rw [e] at ht ⊢
  · exact absurd ht hf
  · cases ht
  · cases ht
  · exact ⟨_, rfl⟩

/-- Settles O33: the read left a response, which the operation after it does not see. -/
theorem readsHaveNoSideEffect : Obligations.ReadsHaveNoSideEffect := by
  intro i j s t hi h ht t' h'
  obtain ⟨r, rfl⟩ := reader_eq_respond hi h ht
  rw [exec_respond, h']

end Sys2Proof.Machine
end

section
/-! # Proofs of the encoding family (spec/30_encoding.md)

The command decoder as an inverse of the encoder, the frame of the readers, and the values of the hex digits. -/

namespace Sys2Proof

/-! ### The command decoder -/

/-- Each code of R20 names one variant, so reading a code is the same as comparing it. -/
theorem variantOfCode_eq_iff {c : BitVec 1} {v : Variant} : variantOfCode c = v ↔ c = variantCode v := by
  revert c
  cases v <;> decide

@[simp] theorem variantOfCode_variantCode (v : Variant) : variantOfCode (variantCode v) = v :=
  variantOfCode_eq_iff.mpr rfl

/-- The operation of `i`'s format with the operands that stand in the fields of `c` (R102). -/
def Instr.withOperandsOf (c : Command) : Instr → Instr
  | .decode _ _ => .decode (variantOfCode c.variant) c.bytes
  | .lrc8 _ => .lrc8 c.bytes
  | .crc16 _ => .crc16 c.bytes
  | .encode _ _ _ _ => .encode (variantOfCode c.variant) c.addr { fc := c.fc, pdata := c.pdata } c.delim
  | .empty => .empty
  | .size => .size
  | .data => .data
  | .serverAddress => .serverAddress
  | .pdu => .pdu
  | .checksum => .checksum
  | .rawSize => .rawSize
  | .rawData => .rawData
  | .matchesTrailer => .matchesTrailer

theorem opCode_lt (i : Instr) : (opCode i).toNat < 13 := by
  cases i <;> simp [opCode]

/-- The decoder's rule: with the select code of `i`, a command is `i` on the command's own operands (R96). -/
theorem decode_of_op_eq {c : Command} {i : Instr} (h : c.op = opCode i) : decode c = .ok (i.withOperandsOf c) := by
  unfold decode
  rw [h]
  cases i <;> rfl

/-- Everything the decoder can answer: an operation with the command's select code, or the error of a reserved code. -/
theorem decode_cases (c : Command) :
    (∃ i, c.op = opCode i ∧ decode c = .ok i) ∨ (13 ≤ c.op.toNat ∧ decode c = .error (.reservedOp c.op)) := by
  unfold decode
  split
  case h_14 =>
    refine .inr ⟨?_, rfl⟩
    simp only [imp_false] at *
    omega
  all_goals exact .inl ⟨_, BitVec.eq_of_toNat_eq ‹_›, rfl⟩

theorem decode_eq_ok_iff {c : Command} {i : Instr} :
    decode c = .ok i ↔ c.op = opCode i ∧ i.withOperandsOf c = i := by
  constructor
  · intro h
    rcases decode_cases c with ⟨j, hop, hj⟩ | ⟨-, herr⟩
    · cases hj.symm.trans h
      exact ⟨hop, Except.ok.inj ((decode_of_op_eq hop).symm.trans h)⟩
    · cases herr.symm.trans h
  · rintro ⟨hop, hfields⟩
    rw [decode_of_op_eq hop, hfields]

theorem encode_op (i : Instr) : (encode i).op = opCode i := by
  cases i <;> rfl

theorem withOperandsOf_encode (i : Instr) : i.withOperandsOf (encode i) = i := by
  cases i <;> simp [Instr.withOperandsOf, encode, bareCommand]

/-- Settles O56: the command has the operation's select code and its operands. -/
theorem decodeOfEncodeIsTheOperation : Obligations.DecodeOfEncodeIsTheOperation :=
  fun i => decode_eq_ok_iff.mpr ⟨encode_op i, withOperandsOf_encode i⟩

/-- Settles O57: format by format, the fields read are `i`'s operands exactly when they are equal to them. -/
theorem decodeReadsTheFieldsOfTheFormat : Obligations.DecodeReadsTheFieldsOfTheFormat := by
  intro c i
  rw [decode_eq_ok_iff]
  refine and_congr_right fun _ => ?_
  cases i with
  | decode v bytes => simp [Instr.withOperandsOf, variantOfCode_eq_iff]
  | lrc8 bytes => simp [Instr.withOperandsOf]
  | crc16 bytes => simp [Instr.withOperandsOf]
  | encode v addr p delim => cases p; simp [Instr.withOperandsOf, variantOfCode_eq_iff, and_assoc]
  | _ => exact iff_of_true rfl trivial

/-- Settles O58: the table's 18 words, each decoded. -/
theorem tableWordsDecodeToTheirRows : Obligations.TableWordsDecodeToTheirRows := by
  unfold Obligations.TableWordsDecodeToTheirRows
  decide

end Sys2Proof

namespace Sys2Proof.Machine

/-! ### Reserved codes -/

/-- The step's rule for a command that selects no operation (R97). -/
theorem step_of_reserved {s : State} {c : Command} {rest : List HostEvent} {e : DecodeError}
    (hin : s.inbox = .command c :: rest) (hdec : decode c = .error e) :
    step s = .next ((s.withInbox rest).refuse .reservedOp) := by
  simp [step, hin, hdec]

/-- Settles O2: what the decoder answers is fixed by whether `op` is below 13, as every select code is. -/
theorem reservedCodesAreRefusedWithoutEffect : Obligations.ReservedCodesAreRefusedWithoutEffect := by
  intro s c rest hin
  rcases decode_cases c with ⟨i, hop, hdec⟩ | ⟨hres, herr⟩
  · have hlt : c.op.toNat < 13 := hop ▸ opCode_lt i
    exact ⟨fun h => absurd hlt (Nat.not_lt.mpr h), fun _ => ⟨i, hdec⟩⟩
  · exact ⟨fun _ => ⟨herr, step_of_reserved hin herr⟩, fun h => absurd h (Nat.not_lt.mpr hres)⟩

/-! ### The readers -/

/-- Settles O30: each of the four outcomes of R129's tests gives a response, and two of them record a cause as well. -/
theorem readersChangeOnlyFaultAndResponse : Obligations.ReadersChangeOnlyFaultAndResponse := by
  intro i s t hi h
  rw [exec_reader hi] at h
  cases h
  rcases withUnit_cases s (testsOf i) (answerOf i) with ⟨-, e⟩ | ⟨hf, -, e⟩ | ⟨u, c, hf, -, -, e⟩ | ⟨u, -, -, -, e⟩ <;>
    rw [e]
  · exact ⟨rfl, rfl, rfl, .inl rfl⟩
  · exact ⟨rfl, rfl, rfl, .inr ⟨hf, _, rfl, rfl⟩⟩
  · exact ⟨rfl, rfl, rfl, .inr ⟨hf, _, rfl, rfl⟩⟩
  · exact ⟨rfl, rfl, rfl, .inl rfl⟩

/-! ### Reading hex digits (R86) -/

/-- Two nibbles joined, as a number: the first is the high one. -/
theorem joinedNibbles_toNat (d0 d1 : BitVec 4) : (d0 ++ d1 : Byte).toNat = d0.toNat * 16 + d1.toNat := by
  rw [BitVec.toNat_append, Nat.shiftLeft_eq, Nat.mul_comm, ← Nat.two_pow_add_eq_or_of_lt (i := 4) d1.isLt]

/-- `hexVal` with its ranges and its values as numbers. -/
theorem hexVal_toNat (c : Byte) : (hexVal c).map BitVec.toNat =
    if 0x30 ≤ c.toNat ∧ c.toNat ≤ 0x39 then some (c.toNat - 0x30)
    else if 0x41 ≤ c.toNat ∧ c.toNat ≤ 0x46 then some (c.toNat - 0x41 + 10)
    else if 0x61 ≤ c.toNat ∧ c.toNat ≤ 0x66 then some (c.toNat - 0x61 + 10)
    else none := by
  simp only [hexVal, BitVec.le_def, BitVec.toNat_ofNat]
  split_ifs <;> simp [BitVec.toNat_sub, BitVec.toNat_add] <;> omega

theorem isHex_iff (c : Byte) : isHex c = true ↔
    (0x30 ≤ c.toNat ∧ c.toNat ≤ 0x39) ∨ (0x41 ≤ c.toNat ∧ c.toNat ≤ 0x46) ∨ (0x61 ≤ c.toNat ∧ c.toNat ≤ 0x66) := by
  rw [isHex, ← Option.isSome_map (f := BitVec.toNat), hexVal_toNat]
  split_ifs <;> simp <;> omega

/-- Settles O36: the three ranges are disjoint, so in each the value is that range's. -/
theorem hexDigitsOfEitherCase : Obligations.HexDigitsOfEitherCase := by
  refine ⟨fun d0 d1 => ?_, fun c => ⟨fun h1 h2 => ?_, fun h1 h2 => ?_, fun h1 h2 => ?_, isHex_iff c⟩⟩
  · rw [← joinedNibbles_toNat, BitVec.ofNat_toNat, BitVec.setWidth_eq]
    rfl
  · rw [hexVal_toNat, if_pos ⟨h1, h2⟩]
  · rw [hexVal_toNat, if_neg (by omega), if_pos ⟨h1, h2⟩]
  · rw [hexVal_toNat, if_neg (by omega), if_neg (by omega), if_pos ⟨h1, h2⟩]

/-! ### Writing hex digits (R54, R85) -/

theorem hexChar_toNat_of_digit (c : HexCase) {v : BitVec 4} (h : v.toNat ≤ 9) :
    (hexChar c v).toNat = 0x30 + v.toNat := by
  have hv : v ≤ 9#4 := h
  rw [hexChar.eq_def, if_pos hv, BitVec.toNat_add, BitVec.toNat_setWidth_of_le (by decide), BitVec.toNat_ofNat]
  omega

/-- The code of the letter A in the case `c`. -/
def letterA : HexCase → Byte
  | .upper => 0x41#8
  | .lower => 0x61#8

theorem hexChar_of_letter (c : HexCase) {v : BitVec 4} (h : 10 ≤ v.toNat) :
    hexChar c v = letterA c + (v.setWidth 8 - 10#8) := by
  have hv : ¬ v ≤ 9#4 := Nat.not_le.mpr h
  rw [hexChar.eq_def, if_neg hv]
  cases c <;> rfl

/-- The letters of a case follow its A without leaving the byte. -/
theorem hexChar_toNat_of_letter (c : HexCase) {v : BitVec 4} (h : 10 ≤ v.toNat) :
    (hexChar c v).toNat = (letterA c).toNat + (v.toNat - 10) := by
  have hA : (letterA c).toNat ≤ 0x61 := by cases c <;> decide
  rw [hexChar_of_letter c h]
  simp only [BitVec.toNat_add, BitVec.toNat_sub, BitVec.toNat_setWidth, BitVec.toNat_ofNat]
  omega

/-- The two characters of byte `i` stand at `2 * i` and `2 * i + 1`, the high nibble's first. -/
theorem hexEncode_getElem? (c : HexCase) {s : List Byte} {i : Nat} {b : Byte} (h : s[i]? = some b) :
    (hexEncode c s)[2 * i]? = some (hexChar c (b.extractLsb' 4 4)) ∧
      (hexEncode c s)[2 * i + 1]? = some (hexChar c (b.extractLsb' 0 4)) := by
  induction s generalizing i with
  | nil => cases h
  | cons a s ih =>
    cases i with
    | zero =>
      cases h
      exact ⟨rfl, rfl⟩
    | succ i => exact ih h

/-- Settles O37, from the length and the layout of `hexEncode` and the values of its characters. -/
theorem hexEncodeLaysOutPairs : Obligations.HexEncodeLaysOutPairs := by
  refine ⟨fun c s => ⟨hexEncode_length c s, fun i b => hexEncode_getElem? c⟩, fun c v => hexChar_toNat_of_digit c,
    fun v => hexChar_toNat_of_letter .upper, fun v => hexChar_toNat_of_letter .lower⟩

end Sys2Proof.Machine
end

section
/-! # Proofs of the decoder family (spec/40_decoder.md)

DECODE and the accessors as cases of the admission order of R129, the hex decoding of an ASCII interior, and the payload as
all that the accessors and MATCHES read of a unit. -/

namespace Sys2Proof.Machine

/-! ### The admission order of R129, as rules about `exec` -/

section admission
variable {i : Instr} {s : State} {u : SerialAdu}

/-- Every operation tests the fault record first (R214). -/
theorem exec_refusesWhenFaulted (i : Instr) (s : State) : refusesWhenFaulted i s := by
  intro c hf
  rcases instr_cases i with hi | hi | ⟨v, bytes, rfl⟩
  · rw [exec_reader hi, withUnit_of_fault hf]
    rfl
  · rw [exec_pure hi, withLength_of_fault hf]
    rfl
  · rw [exec_decode, withLength_of_fault hf]
    rfl

theorem reader_faultsWithoutUnit (hi : i ∈ unitReaders) (s : State) : faultsWithoutUnit i s := by
  intro hf hu
  rw [exec_reader hi, withUnit_of_noUnit hf hu]
  rfl

/-- A reader whose tests raise `c` enters that fault. -/
theorem reader_takesFault (hi : i ∈ unitReaders) (hf : s.fault = none) (hu : s.unit = some u) {c : FaultCause}
    (hc : firstCause (testsOf i) u = some c) : exec i s = .next (s.takeFault c) := by
  rw [exec_reader hi, withUnit_of_cause hf hu hc]

/-- A reader whose tests raise nothing gives its answer. -/
theorem reader_responds (i : Instr) (hi : i ∈ unitReaders) (hf : s.fault = none) (hu : s.unit = some u)
    (hc : firstCause (testsOf i) u = none) {r : Response} (hr : answerOf i u = r) :
    exec i s = .next (s.respond r) := by
  rw [exec_reader hi, withUnit_of_admitted hf hu hc, hr]

/-- The readers that make the tests (3) and (4) fault on a payload shorter than the trailer. -/
theorem reader_faultsOnShortPayload (hi : i ∈ unitReaders) (hn : 2 ≤ testsOf i) (s : State) :
    faultsOnShortPayload i s := by
  intro u hf hu
  constructor
  · intro hempty
    exact reader_takesFault hi hf hu (firstCause_empty (by omega) (List.length_eq_zero_iff.mpr hempty))
  · intro hne hshort
    exact reader_takesFault hi hf hu (firstCause_short hn (mt List.length_eq_zero_iff.mp hne) hshort)

end admission

/-! ### DECODE (R120) -/

/-- Settles O32: DECODE is refused, or it loads its operands. -/
theorem decodeChangesOnlyUnitAndResponse : Obligations.DecodeChangesOnlyUnitAndResponse := by
  intro v bytes s t h
  rw [exec_decode] at h
  cases h
  rcases withLength_cases s bytes.length (fun s => s.loadUnit v bytes) with ⟨-, e⟩ | ⟨-, -, e⟩ | ⟨-, -, e⟩ <;> rw [e]
  · exact ⟨rfl, rfl, rfl, .inl ⟨rfl, _, rfl⟩⟩
  · exact ⟨rfl, rfl, rfl, .inl ⟨rfl, _, rfl⟩⟩
  · exact ⟨rfl, rfl, rfl, .inr ⟨rfl, rfl⟩⟩

/-- Settles O17: the three cases of the length test, the fault record read first. -/
theorem decodeLoadsTheUnit : Obligations.DecodeLoadsTheUnit := by
  intro s v bytes
  refine ⟨exec_refusesWhenFaulted _ s, fun hf hfits => ?_, fun hf hlong => ?_⟩
  · rw [exec_decode, withLength_of_fits hf hfits]
    rfl
  · rw [exec_decode, withLength_of_long hf hlong]
    rfl

/-! ### The accessors (R122 to R128) -/

/-- Settles O19: the logical size is the payload length less the trailer width. -/
theorem sizeAnswersTheLogicalSize : Obligations.SizeAnswersTheLogicalSize := by
  refine ⟨⟨rfl, rfl⟩, fun s => ⟨exec_refusesWhenFaulted _ s, reader_faultsWithoutUnit (by decide) s,
    reader_faultsOnShortPayload (by decide) (by decide) s, fun u hf hu hw => ?_⟩⟩
  exact reader_responds .size (by decide) hf hu (firstCause_two hw) rfl

/-- Settles O20: the data region of a split payload is its first part. -/
theorem dataAnswersTheDataRegion : Obligations.DataAnswersTheDataRegion := by
  refine fun s => ⟨exec_refusesWhenFaulted _ s, reader_faultsWithoutUnit (by decide) s,
    reader_faultsOnShortPayload (by decide) (by decide) s, fun u d trailer hf hu h => ?_⟩
  exact reader_responds .data (by decide) hf hu h.firstCause_two (congrArg Response.bytes h.dataRegion_eq)

/-- An empty data region fails the address test of every reader that makes it. -/
theorem SerialAdu.splitsAs.firstCause_noAddress {u : SerialAdu} {trailer : List Byte} (h : u.splitsAs [] trailer)
    {n : Nat} (hn : 3 ≤ n) : firstCause n u = some .noAddress :=
  Sys2Proof.Machine.firstCause_noAddress hn (h.length_eq.trans (Nat.zero_add _))

/-- Settles O21: an empty data region fails the address test, and byte 0 of another is the answer. -/
theorem serverAddressAnswersTheFirstByte : Obligations.ServerAddressAnswersTheFirstByte := by
  refine fun s => ⟨exec_refusesWhenFaulted _ s, reader_faultsWithoutUnit (by decide) s,
    reader_faultsOnShortPayload (by decide) (by decide) s, fun u trailer hf hu h => ?_,
    fun u a d trailer hf hu h => ?_⟩
  · exact reader_takesFault (by decide) hf hu (h.firstCause_noAddress (by decide))
  · have hlen : trailerWidth u.variant < u.payload.length := by
      rw [h.length_eq, List.length_cons]
      omega
    exact reader_responds .serverAddress (by decide) hf hu (firstCause_three hlen) (congrArg Response.byte h.address_eq)

/-- Settles O22: the region's length, 0, 1 or more, decides between the two faults and the answer. -/
theorem pduAnswersFunctionCodeAndData : Obligations.PduAnswersFunctionCodeAndData := by
  refine fun s => ⟨exec_refusesWhenFaulted _ s, reader_faultsWithoutUnit (by decide) s,
    reader_faultsOnShortPayload (by decide) (by decide) s, fun u trailer hf hu h => ?_,
    fun u a trailer hf hu h => ?_, fun u a fc pdata trailer hf hu h => ?_⟩
  · exact reader_takesFault (by decide) hf hu (h.firstCause_noAddress (by decide))
  · exact reader_takesFault (by decide) hf hu (firstCause_noFunctionCode (h.length_eq.trans (Nat.add_comm ..)))
  · have hlen : trailerWidth u.variant + 1 < u.payload.length := by
      rw [h.length_eq, List.length_cons, List.length_cons]
      omega
    exact reader_responds .pdu (by decide) hf hu (firstCause_four hlen) (congrArg Response.pdu h.pdu_eq)

theorem SerialAdu.checksumResponse_of_ascii {u : SerialAdu} (h : u.variant = .ascii) :
    u.checksumResponse = .byte u.trailer8 := by
  rw [SerialAdu.checksumResponse, h]

theorem SerialAdu.checksumResponse_of_rtu {u : SerialAdu} (h : u.variant = .rtu) :
    u.checksumResponse = .half u.trailer16 := by
  rw [SerialAdu.checksumResponse, h]

/-- Settles O23: the trailer of each variant, and two bytes joined as a number. -/
theorem checksumAnswersTheTrailer : Obligations.ChecksumAnswersTheTrailer := by
  refine ⟨fun s => ⟨exec_refusesWhenFaulted _ s, reader_faultsWithoutUnit (by decide) s,
    reader_faultsOnShortPayload (by decide) (by decide) s, fun u d x hf hu hv h => ?_,
    fun u d x y hf hu hv h => ?_⟩, joined_toNat⟩
  · have hanswer : u.checksumResponse = .byte x := by rw [SerialAdu.checksumResponse_of_ascii hv, h.trailer8_eq]
    exact reader_responds .checksum (by decide) hf hu h.firstCause_two hanswer
  · have hanswer : u.checksumResponse = .half (x ++ y) := by
      rw [SerialAdu.checksumResponse_of_rtu hv, h.trailer16_eq]
    exact reader_responds .checksum (by decide) hf hu h.firstCause_two hanswer

/-- Settles O24: RAW_SIZE makes no test on the unit's bytes. -/
theorem rawSizeAnswersTheRawLength : Obligations.RawSizeAnswersTheRawLength := fun s =>
  ⟨exec_refusesWhenFaulted _ s, reader_faultsWithoutUnit (by decide) s,
    fun u hf hu => reader_responds .rawSize (by decide) hf hu (firstCause_zero u) rfl⟩

/-- Settles O25: RAW_DATA makes no test on the unit's bytes. -/
theorem rawDataAnswersTheRawBytes : Obligations.RawDataAnswersTheRawBytes := fun s =>
  ⟨exec_refusesWhenFaulted _ s, reader_faultsWithoutUnit (by decide) s,
    fun u hf hu => reader_responds .rawData (by decide) hf hu (firstCause_zero u) rfl⟩

/-! ### Decoding hex digits (R118) -/

theorem isHex_eq_true_iff {c : Byte} : isHex c = true ↔ ∃ d, hexVal c = some d :=
  Option.isSome_iff_exists

theorem isHex_eq_false_iff {c : Byte} : isHex c = false ↔ hexVal c = none :=
  Option.isSome_eq_false_iff.trans Option.isNone_iff_eq_none

theorem hexPrefix_cons_of_hexVal {c : Byte} {d : BitVec 4} (h : hexVal c = some d) (t : List Byte) :
    hexPrefix (c :: t) = d :: hexPrefix t := by
  simp [hexPrefix, h]

theorem hexPrefix_cons_of_not_isHex {c : Byte} (h : isHex c = false) (t : List Byte) : hexPrefix (c :: t) = [] := by
  simp [hexPrefix, isHex_eq_false_iff.mp h]

/-- A run of `h` hex digits that no further digit follows is all of `hexPrefix`. -/
theorem hexPrefix_length {t : List Byte} {h : Nat} (hle : h ≤ t.length) (hall : ∀ c ∈ t.take h, isHex c = true)
    (hstop : ∀ c, t[h]? = some c → isHex c = false) : (hexPrefix t).length = h := by
  induction t generalizing h with
  | nil => exact (Nat.le_zero.mp hle).symm
  | cons c t ih =>
    cases h with
    | zero => rw [hexPrefix_cons_of_not_isHex (hstop c rfl), List.length_nil]
    | succ h =>
      rw [List.take_succ_cons, List.forall_mem_cons] at hall
      obtain ⟨hc, hrest⟩ := hall
      obtain ⟨d, hd⟩ := isHex_eq_true_iff.mp hc
      rw [hexPrefix_cons_of_hexVal hd, List.length_cons, ih (Nat.le_of_succ_le_succ hle) hrest hstop]

/-- Digit `i` of `hexPrefix` is the value of byte `i`. -/
theorem hexVal_of_hexPrefix_getElem? {t : List Byte} {i : Nat} {d : BitVec 4} (h : (hexPrefix t)[i]? = some d) :
    ∃ c, t[i]? = some c ∧ hexVal c = some d := by
  induction t generalizing i with
  | nil => cases h
  | cons c t ih =>
    cases hc : hexVal c with
    | none =>
      rw [hexPrefix_cons_of_not_isHex (isHex_eq_false_iff.mpr hc)] at h
      cases h
    | some e =>
      rw [hexPrefix_cons_of_hexVal hc] at h
      cases i with
      | zero => exact ⟨c, rfl, hc.trans h⟩
      | succ i => exact ih h

/-- Byte `j` of the pairs joins the digits `2 * j` and `2 * j + 1`. -/
theorem pairNibbles_getElem? {ds : List (BitVec 4)} {j : Nat} {d0 d1 : BitVec 4} (h0 : ds[2 * j]? = some d0)
    (h1 : ds[2 * j + 1]? = some d1) : (pairNibbles ds)[j]? = some (d0 ++ d1) := by
  induction ds using pairNibbles.induct generalizing j with
  | case1 a b rest ih =>
    cases j with
    | zero =>
      cases h0
      cases h1
      rfl
    | succ j => exact ih h0 h1
  | case2 a => cases h1
  | case3 => cases h1

@[simp] theorem hexPrefixDecode_nil : hexPrefixDecode [] = [] := rfl

theorem hexPrefixDecode_cons_cons {a b : Byte} {d0 d1 : BitVec 4} (h0 : hexVal a = some d0) (h1 : hexVal b = some d1)
    (t : List Byte) : hexPrefixDecode (a :: b :: t) = (d0 ++ d1) :: hexPrefixDecode t := by
  rw [hexPrefixDecode, hexPrefix_cons_of_hexVal h0, hexPrefix_cons_of_hexVal h1]
  rfl

theorem hexPrefixDecode_length (t : List Byte) : (hexPrefixDecode t).length = (hexPrefix t).length / 2 :=
  pairNibbles_length _

/-- Settles O35: `hexPrefix` gives the values of the first `h` bytes, digit by digit, and the decoding joins them in
pairs. -/
theorem hexPrefixDecodeTakesWholePairs : Obligations.HexPrefixDecodeTakesWholePairs := by
  intro t h hle hall hstop
  have hlen : (hexPrefix t).length = h := hexPrefix_length hle hall hstop
  refine ⟨by rw [hexPrefixDecode_length, hlen], fun j hj => ?_⟩
  have hd0 := List.getElem?_eq_getElem (l := hexPrefix t) (i := 2 * j) (by omega)
  have hd1 := List.getElem?_eq_getElem (l := hexPrefix t) (i := 2 * j + 1) (by omega)
  obtain ⟨c0, hc0, hv0⟩ := hexVal_of_hexPrefix_getElem? hd0
  obtain ⟨c1, hc1, hv1⟩ := hexVal_of_hexPrefix_getElem? hd1
  refine ⟨c0, c1, _, _, hc0, hc1, hv0, hv1, ?_⟩
  rw [hexPrefixDecode, pairNibbles_getElem? hd0 hd1, Option.map_some, joinedNibbles_toNat]

/-- Encoded bytes are read back, and what follows them is decoded on its own. -/
theorem hexPrefixDecode_hexEncode_append (c : HexCase) (s t : List Byte) :
    hexPrefixDecode (hexEncode c s ++ t) = s ++ hexPrefixDecode t := by
  induction s with
  | nil => rfl
  | cons b s ih =>
    rw [hexEncode_cons, List.cons_append, List.cons_append,
      hexPrefixDecode_cons_cons (hexVal_hexChar c _) (hexVal_hexChar c _), nibbles_append, ih, List.cons_append]

/-- Settles O38: nothing follows the encoded bytes. -/
theorem hexPrefixDecodeInvertsHexEncode : Obligations.HexPrefixDecodeInvertsHexEncode := by
  intro c s
  simpa using hexPrefixDecode_hexEncode_append c s []

/-- A decoding is empty unless it has a first pair. -/
theorem hexPrefixDecode_cons_cons_eq_nil_iff (a b : Byte) (t : List Byte) :
    hexPrefixDecode (a :: b :: t) = [] ↔ ¬ (isHex a = true ∧ isHex b = true) := by
  by_cases ha : isHex a = true
  · obtain ⟨d0, hd0⟩ := isHex_eq_true_iff.mp ha
    by_cases hb : isHex b = true
    · obtain ⟨d1, hd1⟩ := isHex_eq_true_iff.mp hb
      simp [hexPrefixDecode_cons_cons hd0 hd1, ha, hb]
    · have hb' := eq_false_of_ne_true hb
      simp [hexPrefixDecode, hexPrefix_cons_of_hexVal hd0, hexPrefix_cons_of_not_isHex hb', pairNibbles, hb']
  · have ha' := eq_false_of_ne_true ha
    simp [hexPrefixDecode, hexPrefix_cons_of_not_isHex ha', pairNibbles, ha']

/-! ### The interior and the payload (R117, R119, R121) -/

theorem asciiInterior_framed (a x y : Byte) (t : List Byte) : asciiInterior ([a] ++ t ++ [x, y]) = t := by
  simp [asciiInterior]

theorem asciiInterior_of_length_lt {raw : List Byte} (h : raw.length < 3) : asciiInterior raw = [] :=
  if_neg (Nat.not_le.mpr h)

/-- Settles O34: both cases of the interior's length test. -/
theorem interiorStripsByPosition : Obligations.InteriorStripsByPosition :=
  ⟨asciiInterior_framed, fun _ => asciiInterior_of_length_lt⟩

theorem payload_ascii_length_le (raw : List Byte) : (payload .ascii raw).length ≤ (raw.length - 3) / 2 := by
  rw [payload, hexPrefixDecode_length, ← asciiInterior_length]
  exact Nat.div_le_div_right (hexPrefix_length_le _)

theorem payload_ascii_length {raw : List Byte} (h : ∀ c ∈ asciiInterior raw, isHex c = true) :
    (payload .ascii raw).length = (raw.length - 3) / 2 := by
  have hlen : (hexPrefix (asciiInterior raw)).length = (asciiInterior raw).length :=
    hexPrefix_length (Nat.le_refl _) (by rwa [List.take_length]) (by simp)
  rw [payload, hexPrefixDecode_length, hlen, asciiInterior_length]

/-- Settles O39: the payload's definition by variant, and the bound on its length with the equality case. -/
theorem payloadLengths : Obligations.PayloadLengths :=
  ⟨fun _ => ⟨rfl, rfl⟩, payload_ascii_length_le, fun _ => payload_ascii_length⟩

theorem SerialAdu.emptyFlag_eq (u : SerialAdu) : u.emptyFlag = decide (u.payload = []) := by
  rw [Bool.eq_iff_iff, SerialAdu.emptyFlag, List.isEmpty_iff, decide_eq_true_iff]

/-- From five raw bytes on, the interior starts with bytes 1 and 2. -/
theorem asciiInterior_of_five_le (x a b : Byte) {rest : List Byte} (h : 2 ≤ rest.length) :
    asciiInterior (x :: a :: b :: rest) = a :: b :: rest.take (rest.length - 2) := by
  obtain ⟨k, hk⟩ := Nat.exists_eq_add_of_le' h
  simp [asciiInterior, hk]

/-- Settles O18: a short frame has no room for a pair, and a longer one has a payload if its first pair is hex digits. -/
theorem emptyAnswersWhetherThePayloadIsEmpty : Obligations.EmptyAnswersWhetherThePayloadIsEmpty := by
  refine ⟨fun s => ⟨exec_refusesWhenFaulted _ s, reader_faultsWithoutUnit (by decide) s, fun u hf hu => ?_⟩,
    fun raw => Iff.rfl, fun raw hraw => ?_, fun x a b rest hrest => ?_⟩
  · exact reader_responds .empty (by decide) hf hu (firstCause_zero u) (congrArg Response.bit u.emptyFlag_eq)
  · have hle := payload_ascii_length_le raw
    exact List.length_eq_zero_iff.mp (by omega)
  · rw [payload, asciiInterior_of_five_le x a b hrest, hexPrefixDecode_cons_cons_eq_nil_iff]

/-! ### Only the payload is read (R117, R98, R253) -/

/-- The readers that see the unit through its variant and its payload alone: all but RAW_SIZE and RAW_DATA. -/
def payloadReaders : List Instr :=
  [.empty, .size, .data, .serverAddress, .pdu, .checksum, .matchesTrailer]

theorem mem_unitReaders_of_mem_payloadReaders {i : Instr} (hi : i ∈ payloadReaders) : i ∈ unitReaders := by
  revert i
  decide

section samePayload
variable {v : Variant} {raw raw' : List Byte} (h : payload v raw = payload v raw')
include h

/-- The tests of R129 read the variant and the payload alone. -/
theorem firstCause_congr_payload (n : Nat) : firstCause n ⟨v, raw⟩ = firstCause n ⟨v, raw'⟩ := by
  have htests : ∀ t ∈ unitTests, t.2 ⟨v, raw⟩ = t.2 ⟨v, raw'⟩ := by
    intro t ht
    simp only [unitTests, List.mem_cons, List.not_mem_nil, or_false] at ht
    rcases ht with rfl | rfl | rfl | rfl
    · exact congrArg (fun q => q.length == 0) h
    · exact congrArg (fun q => decide (q.length < trailerWidth v)) h
    · exact congrArg (fun q => q.length - trailerWidth v == 0) h
    · exact congrArg (fun q => q.length - trailerWidth v == 1) h
  rw [firstCause, firstCause, List.find?_congr fun t ht => htests t (List.mem_of_mem_take ht)]

/-- The views of the unit these readers answer with are views of the payload. -/
theorem answerOf_congr_payload {i : Instr} (hi : i ∈ payloadReaders) :
    answerOf i ⟨v, raw⟩ = answerOf i ⟨v, raw'⟩ := by
  simp only [payloadReaders, List.mem_cons, List.not_mem_nil, or_false] at hi
  rcases hi with rfl | rfl | rfl | rfl | rfl | rfl | rfl <;>
    simp only [answerOf, SerialAdu.emptyFlag, SerialAdu.matchesFlag, SerialAdu.checksumResponse, SerialAdu.pduOf,
      SerialAdu.trailer8, SerialAdu.trailer16, SerialAdu.dataRegion, SerialAdu.logicalSize, SerialAdu.payloadByte,
      SerialAdu.payload, h]

/-- Such a reader gives the same response and leaves the same fault record where the units have the same payload. -/
theorem reader_congr_payload {i : Instr} (hi : i ∈ payloadReaders) {s s' t t' : State} (hfault : s'.fault = s.fault)
    (hu : s.unit = some ⟨v, raw⟩) (hu' : s'.unit = some ⟨v, raw'⟩) (ht : exec i s = .next t)
    (ht' : exec i s' = .next t') : t.response = t'.response ∧ t.fault = t'.fault := by
  have hread := mem_unitReaders_of_mem_payloadReaders hi
  cases hf : s.fault with
  | some c =>
    have hf' := hfault.trans hf
    cases (exec_refusesWhenFaulted i s c hf).symm.trans ht
    cases (exec_refusesWhenFaulted i s' c hf').symm.trans ht'
    exact ⟨rfl, hfault.symm⟩
  | none =>
    have hf' := hfault.trans hf
    have hcause := firstCause_congr_payload h (testsOf i)
    cases hc : firstCause (testsOf i) ⟨v, raw⟩ with
    | some c =>
      cases (reader_takesFault hread hf hu hc).symm.trans ht
      cases (reader_takesFault hread hf' hu' (hcause.symm.trans hc)).symm.trans ht'
      exact ⟨rfl, rfl⟩
    | none =>
      cases (reader_responds i hread hf hu hc (answerOf_congr_payload h hi)).symm.trans ht
      cases (reader_responds i hread hf' hu' (hcause.symm.trans hc) rfl).symm.trans ht'
      exact ⟨rfl, hfault.symm⟩

end samePayload

/-- Settles O40: the interior of both frames is `t`, so their payloads are the same. -/
theorem framingBytesAreNotExamined : Obligations.FramingBytesAreNotExamined := by
  intro a x y a' x' y' t s
  have h : payload .ascii ([a] ++ t ++ [x, y]) = payload .ascii ([a'] ++ t ++ [x', y']) := by
    rw [payload, payload, asciiInterior_framed, asciiInterior_framed]
  exact ⟨h, fun i hi t1 t2 => reader_congr_payload h hi rfl rfl rfl⟩

end Sys2Proof.Machine
end

section
/-! # Proofs of the checksum family (spec/41_checksum.md)

The LRC as a sum, the CRC as a linear and injective register machine, the serial generators as iterated steps, and the
three operations that answer from them. -/

namespace Sys2Proof.Machine

/-! ### The LRC is the negated sum (R150, R152) -/

theorem sum8_eq_ofNat (t : List Byte) : sum8 t = BitVec.ofNat 8 (t.map BitVec.toNat).sum := by
  induction t with
  | nil => rfl
  | cons c t ih =>
    rw [sum8_cons, ih, List.map_cons, List.sum_cons, BitVec.ofNat_add, BitVec.ofNat_toNat, BitVec.setWidth_eq]

theorem lrc_eq_neg_sum8 (t : List Byte) : lrc t = -sum8 t := rfl

theorem lrc_eq_ofNat (t : List Byte) :
    lrc t = BitVec.ofNat 8 ((256 - (t.map BitVec.toNat).sum % 256) % 256) := by
  apply BitVec.eq_of_toNat_eq
  rw [lrc_eq_neg_sum8, BitVec.toNat_neg, sum8_eq_ofNat, BitVec.toNat_ofNat, BitVec.toNat_ofNat, Nat.mod_mod]

theorem lrc_append (t u : List Byte) : lrc (t ++ u) = lrc t + lrc u := by
  rw [lrc_eq_neg_sum8, sum8_append, neg_add]
  rfl

theorem sum8_add_lrc (t : List Byte) : sum8 t + lrc t = 0#8 :=
  add_neg_cancel (sum8 t)

theorem lrc_append_lrc (t : List Byte) : lrc (t ++ [lrc t]) = 0#8 := by
  rw [lrc_eq_neg_sum8, sum8_append, sum8_cons, sum8_nil, BitVec.add_zero, sum8_add_lrc]
  rfl

theorem sum8_perm {t u : List Byte} (h : t.Perm u) : sum8 t = sum8 u :=
  h.foldl_eq' (fun _ _ _ _ _ => add_right_comm ..) lrcInit

/-- Replacing byte `b` by `c` moves the sum by their difference. -/
theorem sum8_set {t : List Byte} {i : Nat} {b : Byte} (h : t[i]? = some b) (c : Byte) :
    sum8 (t.set i c) = sum8 t + (c - b) := by
  induction t generalizing i with
  | nil => cases h
  | cons a t ih =>
    cases i with
    | zero =>
      cases h
      rw [List.set_cons_zero, sum8_cons, sum8_cons]
      ring
    | succ i =>
      rw [List.set_cons_succ, sum8_cons, sum8_cons, ih h, BitVec.add_assoc]

/-- Settles O41: the laws of the sum, negated. -/
theorem lrcLaws : Obligations.LrcLaws := by
  refine ⟨sum8_add_lrc, lrc_append_lrc, lrc_append, fun t u h => congrArg lrcFinal (sum8_perm h), ?_, ?_⟩
  · intro t i b c hb hne heq
    have hsum : sum8 t + (c - b) = sum8 t := (sum8_set hb c).symm.trans (neg_injective heq)
    exact hne (sub_eq_zero.mp (left_eq_add.mp hsum.symm))
  · intro t i j b c b' c' hij hb hc hcancel
    have hc' : (t.set i b')[j]? = some c := by rw [List.getElem?_set_ne hij, hc]
    have hmoves : b' - b + (c' - c) = 0 := by linear_combination -hcancel
    refine congrArg lrcFinal ?_
    rw [sum8_set hc', sum8_set hb, add_assoc, hmoves, add_zero]

/-! ### The CRC's bit step (R156) -/

theorem crcBit_eq_xor (r : Half) (d : Bool) : crcBit r d = r <<< 1 ^^^ bif r.msb ^^ d then crcPoly else 0#16 := by
  unfold crcBit
  cases r.msb ^^ d <;> simp

theorem crcBit_getLsbD (r : Half) (d : Bool) {i : Nat} (hi : i < 16) :
    (crcBit r d).getLsbD i =
      ((decide (0 < i) && r.getLsbD (i - 1)) ^^ ((r.getLsbD 15 ^^ d) && (0x8005#16).getLsbD i)) := by
  have hcond : (r.getLsbD 15 ^^ d) = (r.msb ^^ d) := by rw [BitVec.msb_eq_getLsbD_last]
  rw [crcBit_eq_xor, hcond, BitVec.getLsbD_xor, BitVec.getLsbD_shiftLeft]
  congr 1
  · simp [hi, Nat.pos_iff_ne_zero]
  · cases r.msb ^^ d
    · exact BitVec.getLsbD_zero
    · rfl

/-- Settles O42: the shift moves every bit up by one, and the XOR inverts where `CRC_POLY` has a 1. -/
theorem crcBitStepIsShiftAndConditionalXor : Obligations.CrcBitStepIsShiftAndConditionalXor :=
  fun r d _ => crcBit_getLsbD r d

/-- Settles O43, from the rules for the empty range, for one more byte and for one byte. -/
theorem crcRegisterTakesBytesInOrder : Obligations.CrcRegisterTakesBytesInOrder :=
  ⟨crcReg_nil, crcReg_append_singleton, crcByte_eq⟩

theorem crcBit_xor (r r' : Half) (d d' : Bool) : crcBit (r ^^^ r') (d ^^ d') = crcBit r d ^^^ crcBit r' d' := by
  have hcond : ((r ^^^ r').msb ^^ (d ^^ d')) = ((r.msb ^^ d) ^^ (r'.msb ^^ d')) := by
    simp only [BitVec.msb_xor, Bool.xor_assoc, Bool.xor_left_comm]
  have hmask (p q : Bool) : (bif p ^^ q then crcPoly else 0#16) =
      (bif p then crcPoly else 0#16) ^^^ bif q then crcPoly else 0#16 := by
    revert p q
    decide
  rw [crcBit_eq_xor, crcBit_eq_xor, crcBit_eq_xor, hcond, hmask, BitVec.shiftLeft_xor_distrib]
  ac_rfl

/-- An input bit equal to the bit shifted out leaves a plain shift. -/
theorem crcBit_msb (r : Half) : crcBit r r.msb = r <<< 1 := by
  simp [crcBit]

/-- `CRC_POLY` has bit 0 set, so the new bit 0 tells whether it was XORed in (R162). -/
theorem crcBit_injective (d : Bool) : Function.Injective (crcBit · d) := by
  intro r r' h
  have hbit (i : Nat) (hi : i < 16) :
      ((decide (0 < i) && r.getLsbD (i - 1)) ^^ ((r.getLsbD 15 ^^ d) && (0x8005#16).getLsbD i)) =
        ((decide (0 < i) && r'.getLsbD (i - 1)) ^^ ((r'.getLsbD 15 ^^ d) && (0x8005#16).getLsbD i)) := by
    rw [← crcBit_getLsbD r d hi, ← crcBit_getLsbD r' d hi]
    exact congrArg (BitVec.getLsbD · i) h
  have hhigh : r.getLsbD 15 = r'.getLsbD 15 := by simpa using hbit 0 (by decide)
  refine BitVec.eq_of_getLsbD_eq fun i hi => ?_
  by_cases hlast : i = 15
  · rw [hlast, hhigh]
  · rw [← Nat.add_sub_cancel i 1]
    simpa only [hhigh, Nat.succ_pos, decide_true, Bool.true_and, Bool.xor_left_inj] using hbit (i + 1) (by omega)

/-! ### The CRC's byte step (R157) -/

theorem crcByte_xor (r r' : Half) (c c' : Byte) : crcByte (r ^^^ r') (c ^^^ c') = crcByte r c ^^^ crcByte r' c' := by
  simp only [crcByte_eq, BitVec.getLsbD_xor, crcBit_xor]

/-- Input bits that are the register's own high bits, one by one, leave a plain shift. -/
theorem crcBits_eq_shiftLeft (r : Half) (d : Nat → Bool) (n : Nat) (h : ∀ k < n, d k = (r <<< k).msb) :
    (List.range n).foldl (fun r k => crcBit r (d k)) r = r <<< n := by
  induction n with
  | zero => exact (BitVec.shiftLeft_zero r).symm
  | succ n ih =>
    rw [List.range_succ, List.foldl_append, ih fun k hk => h k (by omega), List.foldl_cons, List.foldl_nil,
      h n (by omega), crcBit_msb, BitVec.shiftLeft_add]

/-- A byte that is the register's high byte, reversed, shifts it out. -/
theorem crcByte_append_reverse (x y : Byte) : crcByte (x ++ y) x.reverse = y ++ 0#8 := by
  have hshift : (x ++ y : Half) <<< 8 = y ++ 0#8 := by
    rw [BitVec.shiftLeft_eq_concat_of_lt (by decide)]
    exact congrArg (· ++ 0#8) BitVec.extractLsb'_append_eq_right
  rw [← hshift]
  refine crcBits_eq_shiftLeft _ _ _ fun k hk => ?_
  rw [BitVec.msb_shiftLeft, BitVec.getLsbD_reverse, BitVec.getMsbD_append]
  simp [hk]

/-- The register's own two bytes, reversed, shift everything out. -/
theorem crcByte_reverse_bytes (x y : Byte) : crcByte (crcByte (x ++ y) x.reverse) y.reverse = 0#16 := by
  rw [crcByte_append_reverse, crcByte_append_reverse]
  rfl

/-- An input byte acts as if XORed, reversed, into the register's high byte. -/
theorem crcByte_eq_crcByte_zero (r : Half) (c : Byte) : crcByte r c = crcByte (r ^^^ (c.reverse ++ 0#8)) 0#8 := by
  have hout : crcByte (c.reverse ++ 0#8) c = 0#16 :=
    (congrArg (crcByte _) BitVec.reverse_reverse_eq.symm).trans (crcByte_append_reverse c.reverse 0#8)
  calc crcByte r c = crcByte r c ^^^ crcByte (c.reverse ++ 0#8) c := by rw [hout, BitVec.xor_zero]
    _ = crcByte (r ^^^ (c.reverse ++ 0#8)) 0#8 := by rw [← crcByte_xor, BitVec.xor_self]

theorem crcByte_zero (r : Half) : crcByte r 0#8 = (crcBit · false)^[8] r := by
  simp only [crcByte_eq, BitVec.getLsbD_zero]
  rfl

theorem crcByte_zero_injective : Function.Injective (crcByte · 0#8) := by
  intro r r' h
  simp only [crcByte_zero] at h
  exact (crcBit_injective false).iterate 8 h

theorem crcByte_left_injective (c : Byte) : Function.Injective (crcByte · c) := by
  intro r r' h
  simp only [crcByte_eq_crcByte_zero _ c] at h
  exact (BitVec.xor_left_inj _).mp (crcByte_zero_injective h)

theorem crcByte_right_injective (r : Half) : Function.Injective (crcByte r) := by
  intro c c' h
  rw [crcByte_eq_crcByte_zero r c, crcByte_eq_crcByte_zero r c'] at h
  have hjoined := (BitVec.xor_right_inj r).mp (crcByte_zero_injective h)
  have hreverse := (BitVec.append_left_inj 0#8).mp hjoined
  rw [← c.reverse_reverse_eq, hreverse, BitVec.reverse_reverse_eq]

/-! ### The CRC over a range (R157, R161, R162) -/

theorem foldl_crcByte_injective (t : List Byte) : Function.Injective (t.foldl crcByte) := by
  induction t with
  | nil => exact Function.injective_id
  | cons c t ih => exact ih.comp (crcByte_left_injective c)

/-- One byte replaced by another changes the register. -/
theorem foldl_crcByte_set_ne {t : List Byte} {i : Nat} {b c : Byte} (h : t[i]? = some b) (hne : c ≠ b) (r : Half) :
    (t.set i c).foldl crcByte r ≠ t.foldl crcByte r := by
  induction t generalizing i r with
  | nil => cases h
  | cons a t ih =>
    cases i with
    | zero =>
      cases h
      exact fun heq => hne (crcByte_right_injective r (foldl_crcByte_injective t heq))
    | succ i => exact ih h (crcByte r a)

theorem foldl_crcByte_xor {a b : List Byte} (h : a.length = b.length) (r r' : Half) :
    (List.zipWith (· ^^^ ·) a b).foldl crcByte (r ^^^ r') = a.foldl crcByte r ^^^ b.foldl crcByte r' := by
  induction a generalizing b r r' with
  | nil => cases List.length_eq_zero_iff.mp h.symm; rfl
  | cons x a ih =>
    cases b with
    | nil => cases h
    | cons y b =>
      rw [List.zipWith_cons_cons, List.foldl_cons, crcByte_xor]
      exact ih (Nat.succ.inj h) _ _

theorem zipWith_xor_replicate_zero (t : List Byte) :
    List.zipWith (· ^^^ ·) t (List.replicate t.length 0#8) = t := by
  induction t with
  | nil => rfl
  | cons c t ih => rw [List.length_cons, List.replicate_succ, List.zipWith_cons_cons, ih, BitVec.xor_zero]

/-- Settles O47: the constant of length `n` is the register after `n` zero bytes. -/
theorem crcIsLinearOverXor : Obligations.CrcIsLinearOverXor := by
  refine ⟨crcBit_xor, fun n => ⟨crcReg (List.replicate n 0#8), fun a b ha hb => ?_⟩⟩
  have hlen : (List.zipWith (· ^^^ ·) a b).length = n := by rw [List.length_zipWith, ha, hb, Nat.min_self]
  have hinit : crcInit = crcInit ^^^ crcInit ^^^ crcInit := by decide
  calc crcReg (List.zipWith (· ^^^ ·) a b)
      = (List.zipWith (· ^^^ ·) (List.zipWith (· ^^^ ·) a b) (List.replicate n 0#8)).foldl crcByte
          (crcInit ^^^ crcInit ^^^ crcInit) := by
        rw [← hinit, ← hlen, zipWith_xor_replicate_zero]
        rfl
    _ = crcReg a ^^^ crcReg b ^^^ crcReg (List.replicate n 0#8) := by
        rw [foldl_crcByte_xor (hlen.trans List.length_replicate.symm), foldl_crcByte_xor (ha.trans hb.symm)]
        rfl

/-! ### Reflection and byte swap (R158, R159) -/

theorem append_bytes (r : Half) : r.extractLsb' 8 8 ++ r.extractLsb' 0 8 = r :=
  ((eq_joined_iff r _ _).mpr ⟨rfl, rfl⟩).symm

theorem reflect16_append (x y : Byte) : reflect16 (x ++ y) = y.reverse ++ x.reverse :=
  BitVec.reverse_append

theorem swap16_append (x y : Byte) : swap16 (x ++ y) = y ++ x := by
  obtain ⟨hhigh, hlow⟩ := (eq_joined_iff (x ++ y) x y).mp rfl
  rw [swap16, hhigh, hlow]

theorem swap16_eq_or (x : Half) : swap16 x = ((x &&& 0x00FF#16) <<< 8) ||| (x >>> 8) := by
  have hmask : 0x00FF#16 = (BitVec.allOnes 8).setWidth 16 := rfl
  refine BitVec.eq_of_getLsbD_eq fun i hi => ?_
  simp only [swap16, hmask, BitVec.getLsbD_append, BitVec.getLsbD_extractLsb', BitVec.getLsbD_or, BitVec.getLsbD_and,
    BitVec.getLsbD_shiftLeft, BitVec.getLsbD_ushiftRight, BitVec.getLsbD_setWidth, BitVec.getLsbD_allOnes]
  by_cases hlow : i < 8
  · simp [hlow]
  · have hpast : x.getLsbD (8 + i) = false := BitVec.getLsbD_of_ge x _ (by omega)
    have hmasked : i - 8 < 8 ∧ i - 8 < 16 := by omega
    simp [hlow, hi, hpast, hmasked]

/-- The output is the register with each byte reflected in place. -/
theorem crcFinal_append (x y : Byte) : crcFinal (x ++ y) = x.reverse ++ y.reverse := by
  rw [crcFinal, reflect16_append, swap16_append]

theorem reflect16_involutive : Function.Involutive reflect16 := fun _ => BitVec.reverse_reverse_eq

theorem swap16_involutive : Function.Involutive swap16 := by
  intro r
  rw [← append_bytes r, swap16_append, swap16_append]

theorem crcFinal_injective : Function.Injective crcFinal :=
  swap16_involutive.injective.comp reflect16_involutive.injective

theorem crcOut_set_ne {t : List Byte} {i : Nat} {b c : Byte} (h : t[i]? = some b) (hne : c ≠ b) :
    crcOut (t.set i c) ≠ crcOut t :=
  fun heq => foldl_crcByte_set_ne h hne crcInit (crcFinal_injective heq)

theorem crcOut_bytes (t : List Byte) :
    (crcOut t).extractLsb' 8 8 = ((crcReg t).extractLsb' 8 8).reverse ∧
      (crcOut t).extractLsb' 0 8 = ((crcReg t).extractLsb' 0 8).reverse := by
  rw [← eq_joined_iff, crcOut, ← crcFinal_append, append_bytes]

/-- Settles O44: the output's bytes are those of `crc_std` exchanged, so its high byte on the wire is the low one of
`crc_std`. -/
theorem reflectionAndSwap : Obligations.ReflectionAndSwap := by
  refine ⟨fun x i hi => ?_, reflect16_involutive, fun x => ?_, fun t => ⟨rfl, rfl⟩, fun t => ?_⟩
  · rw [reflect16, BitVec.getLsbD_reverse, BitVec.getMsbD]
    simp [hi]
  · exact swap16_eq_or x
  · obtain ⟨hhigh, hlow⟩ := (eq_joined_iff (crcOut t) _ _).mp rfl
    rw [crcTrailer, hhigh, hlow]
    rfl

/-- Settles O46: each trailer byte is the register's high byte reflected, and shifts it out. -/
theorem crcResidueIsZero : Obligations.CrcResidueIsZero := by
  intro t
  obtain ⟨hhigh, hlow⟩ := crcOut_bytes t
  have hzero := crcByte_reverse_bytes ((crcReg t).extractLsb' 8 8) ((crcReg t).extractLsb' 0 8)
  rw [append_bytes] at hzero
  rw [hhigh, hlow, crcReg_append]
  exact hzero

/-! ### The right-shifting form (R160 (b)) -/

theorem reflect16_xor (x y : Half) : reflect16 (x ^^^ y) = reflect16 x ^^^ reflect16 y := by
  refine BitVec.eq_of_getLsbD_eq fun i _ => ?_
  simp only [reflect16, BitVec.getLsbD_reverse, BitVec.getLsbD_xor, BitVec.getMsbD_xor]

theorem reflect16_shiftLeft_one (x : Half) : reflect16 (x <<< 1) = reflect16 x >>> 1 := by
  refine BitVec.eq_of_getLsbD_eq fun i hi => ?_
  simp only [reflect16, BitVec.getLsbD_reverse, BitVec.getLsbD_ushiftRight, BitVec.getMsbD_shiftLeft, Nat.add_comm]

/-- Reflection turns a bit step with input 0 into a bit of the right-shifting form. -/
theorem reflect16_crcBit_semiconj : Function.Semiconj reflect16 (crcBit · false) crcShiftRightBit := by
  intro r
  have hlow : (reflect16 r).getLsbD 0 = r.msb := BitVec.getLsbD_reverse.trans (BitVec.msb_eq_getMsbD_zero r).symm
  have hmask (p : Bool) : reflect16 (bif p then crcPoly else 0#16) = bif p then 0xA001#16 else 0#16 := by
    revert p
    decide
  change reflect16 (crcBit r false) = _
  rw [crcShiftRightBit, hlow, crcBit_eq_xor, reflect16_xor, reflect16_shiftLeft_one, hmask, Bool.xor_false]
  cases r.msb
  · exact BitVec.xor_zero
  · rfl

theorem reflect16_crcByte (r : Half) (c : Byte) : reflect16 (crcByte r c) = crcShiftRightByte (reflect16 r) c := by
  have hbyte : reflect16 (c.reverse ++ 0#8) = c.setWidth 16 := by
    rw [reflect16_append, BitVec.reverse_reverse_eq, BitVec.setWidth_eq_append (by decide)]
    rfl
  rw [crcByte_eq_crcByte_zero, crcByte_zero, (reflect16_crcBit_semiconj.iterate_right 8) _, reflect16_xor, hbyte]
  rfl

theorem reflect16_foldl_crcByte (t : List Byte) (r : Half) :
    reflect16 (t.foldl crcByte r) = t.foldl crcShiftRightByte (reflect16 r) := by
  induction t generalizing r with
  | nil => rfl
  | cons c t ih => rw [List.foldl_cons, ih, reflect16_crcByte, List.foldl_cons]

/-- Settles O45: the start value is its own reflection, and every byte step commutes with reflection. -/
theorem crcEqualsTheRightShiftingForm : Obligations.CrcEqualsTheRightShiftingForm := by
  refine ⟨crcOut_bytes, fun t => ?_⟩
  have hinit : reflect16 crcInit = crcInit := by decide
  rw [crcStd, crcReg, reflect16_foldl_crcByte, hinit, crcShiftRight]

/-! ### The serial generators (R28, R151, R157) -/

theorem crcWorkRun_eq_iterate (bytes : List Byte) (n : Nat) (w : CrcWork) :
    crcWorkRun bytes n w = (crcWorkStep bytes)^[n] w := by
  induction n generalizing w with
  | zero => rfl
  | succ n ih => exact ih _

theorem lrcWorkRun_eq_iterate (bytes : List Byte) (n : Nat) (w : LrcWork) :
    lrcWorkRun bytes n w = (lrcWorkStep bytes)^[n] w := by
  induction n generalizing w with
  | zero => rfl
  | succ n ih => exact ih _

section serial
variable {bytes : List Byte} {n : Nat} {c : Byte}

theorem crcWorkStep_of_some (h : bytes[n]? = some c) (r : Half) (k : BitVec 3) :
    crcWorkStep bytes ⟨r, n, k⟩ = ⟨crcBit r (c.getLsbD k.toNat), if k = 7#3 then n + 1 else n, k + 1⟩ := by
  simp only [crcWorkStep, h]

theorem crcWorkStep_of_none (h : bytes[n]? = none) (r : Half) (k : BitVec 3) :
    crcWorkStep bytes ⟨r, n, k⟩ = ⟨r, n, k⟩ := by
  simp only [crcWorkStep, h]

/-- Eight bit steps from bit 0 are one byte step. -/
theorem crcWorkStep_iterate_eight (h : bytes[n]? = some c) (r : Half) :
    (crcWorkStep bytes)^[8] ⟨r, n, 0#3⟩ = ⟨crcByte r c, n + 1, 0#3⟩ := by
  rw [crcByte_eq]
  simp [crcWorkStep_of_some h]

theorem lrcWorkStep_of_some (h : bytes[n]? = some c) (a : Byte) :
    lrcWorkStep bytes ⟨a, n⟩ = ⟨lrcByte a c, n + 1⟩ := by
  simp only [lrcWorkStep, h]

theorem lrcWorkStep_of_none (h : bytes[n]? = none) (a : Byte) : lrcWorkStep bytes ⟨a, n⟩ = ⟨a, n⟩ := by
  simp only [lrcWorkStep, h]

theorem crcWork_after_bytes (hn : n ≤ bytes.length) :
    (crcWorkStep bytes)^[8 * n] crcWorkInit = ⟨crcReg (bytes.take n), n, 0#3⟩ := by
  induction n with
  | zero => rfl
  | succ n ih =>
    have hbyte : bytes[n]? = some bytes[n] := List.getElem?_eq_getElem hn
    rw [Nat.mul_succ, Nat.add_comm, Function.iterate_add_apply, ih (by omega), crcWorkStep_iterate_eight hbyte,
      ← crcReg_append_singleton, List.take_append_getElem]

theorem lrcWork_after_bytes (hn : n ≤ bytes.length) :
    (lrcWorkStep bytes)^[n] lrcWorkInit = ⟨sum8 (bytes.take n), n⟩ := by
  induction n with
  | zero => rfl
  | succ n ih =>
    have hbyte : bytes[n]? = some bytes[n] := List.getElem?_eq_getElem hn
    rw [Function.iterate_succ_apply', ih (by omega), lrcWorkStep_of_some hbyte, ← List.take_append_getElem hn,
      sum8_append, sum8_cons, sum8_nil, BitVec.add_zero, lrcByte]

end serial

/-- Settles O49: after the last byte both machines are at a fixed point of their step. -/
theorem serialStepsComputeTheChecksums : Obligations.SerialStepsComputeTheChecksums := by
  refine ⟨fun bytes extra => ?_, fun bytes extra => ?_, fun bytes => BitVec.neg_eq_not_add _⟩
  · rw [crcWorkRun_eq_iterate, Nat.add_comm, Function.iterate_add_apply, crcWork_after_bytes (Nat.le_refl _),
      List.take_length]
    exact Function.iterate_fixed (crcWorkStep_of_none (List.getElem?_eq_none (Nat.le_refl _)) _ _) extra
  · rw [lrcWorkRun_eq_iterate, Nat.add_comm, Function.iterate_add_apply, lrcWork_after_bytes (Nat.le_refl _),
      List.take_length]
    exact Function.iterate_fixed (lrcWorkStep_of_none (List.getElem?_eq_none (Nat.le_refl _)) _) extra

/-! ### LRC8, CRC16 and MATCHES (R150, R154, R163) -/

section admission
variable {i : Instr} {s : State}

/-- A pure operation over `MAX_LEN` is refused (R219). -/
theorem pure_refusesLong (hi : isPure i = true) (hf : s.fault = none)
    (hlong : s.params.maxLen < pureLength s.params.hexCase i) : exec i s = .next (s.refuse .tooLong) := by
  rw [exec_pure hi, withLength_of_long hf hlong]

/-- A pure operation within `MAX_LEN` gives its answer. -/
theorem pure_responds (i : Instr) (hi : isPure i = true) (hf : s.fault = none)
    (hfits : pureLength s.params.hexCase i ≤ s.params.maxLen) {r : Response}
    (hr : pureAnswer s.params.hexCase i = r) : exec i s = .next (s.respond r) := by
  rw [exec_pure hi, withLength_of_fits hf hfits, hr]

end admission

/-- Settles O26: the three cases of the length test, and the LRC as a number. -/
theorem lrc8AnswersTheNegatedSum : Obligations.Lrc8AnswersTheNegatedSum := fun s bytes =>
  ⟨exec_refusesWhenFaulted _ s, fun hf hlong => pure_refusesLong rfl hf hlong,
    fun hf hfits => pure_responds (.lrc8 bytes) rfl hf hfits (congrArg Response.byte (lrc_eq_ofNat bytes))⟩

/-- Settles O27: the three cases of the length test, and `crc_out` as the register reflected and swapped. -/
theorem crc16AnswersTheSwappedCrc : Obligations.Crc16AnswersTheSwappedCrc := fun s bytes =>
  ⟨exec_refusesWhenFaulted _ s, fun hf hlong => pure_refusesLong rfl hf hlong,
    fun hf hfits => pure_responds (.crc16 bytes) rfl hf hfits rfl⟩

section splits
variable {u : SerialAdu} {d : List Byte}

theorem SerialAdu.splitsAs.matchesFlag_ascii {x : Byte} (h : u.splitsAs d [x]) (hv : u.variant = .ascii) :
    u.matchesFlag = decide (lrc d = x) := by
  simp only [SerialAdu.matchesFlag, hv, h.dataRegion_eq, h.trailer8_eq]
  rfl

theorem SerialAdu.splitsAs.matchesFlag_rtu {x y : Byte} (h : u.splitsAs d [x, y]) (hv : u.variant = .rtu) :
    u.matchesFlag = decide (crcOut d = x ++ y) := by
  simp only [SerialAdu.matchesFlag, hv, h.dataRegion_eq, h.trailer16_eq]
  rfl

end splits

/-- Settles O28: the flag of each variant on a split payload; two bytes are compared as one value. -/
theorem matchesComparesChecksumAndTrailer : Obligations.MatchesComparesChecksumAndTrailer := by
  refine fun s => ⟨exec_refusesWhenFaulted _ s, reader_faultsWithoutUnit (by decide) s,
    reader_faultsOnShortPayload (by decide) (by decide) s, fun u d x hf hu hv h => ?_,
    fun u d x y hf hu hv h => ?_⟩
  · exact reader_responds .matchesTrailer (by decide) hf hu h.firstCause_two
      (congrArg Response.bit (h.matchesFlag_ascii hv))
  · have hflag : u.matchesFlag = decide ((crcOut d).extractLsb' 8 8 = x ∧ (crcOut d).extractLsb' 0 8 = y) :=
      (h.matchesFlag_rtu hv).trans (decide_eq_decide.mpr (eq_joined_iff (crcOut d) x y))
    exact reader_responds .matchesTrailer (by decide) hf hu h.firstCause_two (congrArg Response.bit hflag)

/-- MATCHES on an `Rtu` unit, by its data region and trailer. -/
theorem exec_matchesTrailer_rtu {s : State} {d : List Byte} {x y : Byte} (hf : s.fault = none)
    (hu : s.unit = some ⟨.rtu, d ++ [x, y]⟩) :
    exec .matchesTrailer s = .next (s.respond (.bit (decide (crcOut d = x ++ y)))) := by
  have hsplit : SerialAdu.splitsAs ⟨.rtu, d ++ [x, y]⟩ d [x, y] := ⟨rfl, rfl⟩
  exact reader_responds .matchesTrailer (by decide) hf hu hsplit.firstCause_two
    (congrArg Response.bit (hsplit.matchesFlag_rtu rfl))

theorem xor_bit_ne_self (b : Byte) {j : Nat} (hj : j < 8) : b ^^^ (1#8 <<< j) ≠ b := by
  have hbit : ∀ k < 8, 1#8 <<< k ≠ 0#8 := by decide
  exact fun h => hbit j hj ((BitVec.xor_right_inj b).mp (h.trans BitVec.xor_zero.symm))

theorem exists_append_pair {raw : List Byte} (h : 2 ≤ raw.length) : ∃ d x y, raw = d ++ [x, y] := by
  have hlast : (raw.drop (raw.length - 2)).length = 2 := by
    rw [List.length_drop]
    omega
  obtain ⟨x, y, hxy⟩ := List.length_eq_two.mp hlast
  exact ⟨raw.take (raw.length - 2), x, y, by rw [← hxy, List.take_append_drop]⟩

/-- Settles O48: the inverted bit makes another byte, so the recomputed CRC is another and the trailer is the same. -/
theorem singleBitErrorsAreDetected : Obligations.SingleBitErrorsAreDetected := by
  intro s raw i j b hf hu hmatch hi hb hj
  obtain ⟨d, x, y, rfl⟩ := exists_append_pair (show 2 ≤ raw.length by omega)
  have hid : i < d.length := by simpa using hi
  rw [List.getElem?_append_left hid] at hb
  have hcrc : crcOut d = x ++ y := by
    rw [exec_matchesTrailer_rtu hf hu] at hmatch
    simpa [State.respond] using hmatch
  have hother : crcOut (d.set i (b ^^^ (1#8 <<< j))) ≠ x ++ y := hcrc ▸ crcOut_set_ne hb (xor_bit_ne_self b hj)
  have hanswer := exec_matchesTrailer_rtu
    (s := { s with unit := some ⟨.rtu, d.set i (b ^^^ (1#8 <<< j)) ++ [x, y]⟩ }) hf rfl
  rw [decide_eq_false hother] at hanswer
  rw [List.set_append_left _ _ hid]
  exact hanswer

end Sys2Proof.Machine
end

section
/-! # Proofs of the encoder family (spec/42_encoder.md)

A frame as a unit whose payload splits into body and checksum, the two round trips of encoder and decoder, and the shape of
an ASCII response. -/

namespace Sys2Proof.Machine

/-! ### ENCODE as an operation (R190, R219) -/

section encode
variable {s : State} {v : Variant} {p : Pdu} (hf : s.fault = none)
include hf

theorem encode_responds (addr delim : Byte) (hfits : encodedLength v p ≤ s.params.maxLen) :
    exec (.encode v addr p delim) s = .next (s.respond (.bytes (encodeFrame s.params.hexCase v addr p delim))) :=
  pure_responds (.encode v addr p delim) rfl hf ((encodeFrame_length ..).trans_le hfits) rfl

theorem encode_refusesLong (addr delim : Byte) (hlong : s.params.maxLen < encodedLength v p) :
    exec (.encode v addr p delim) s = .next (s.refuse .tooLong) :=
  pure_refusesLong rfl hf (hlong.trans_eq (encodeFrame_length ..).symm)

end encode

/-- Settles O29: the length test reads the formula of the variant, and the frame is the variant's. -/
theorem encodeAnswersTheFrame : Obligations.EncodeAnswersTheFrame := by
  refine ⟨fun s addr p delim => ⟨fun v => ⟨exec_refusesWhenFaulted _ s, fun hf hlong => ?_⟩, fun hf hfits => ?_,
    fun hf hfits => ?_⟩, fun _ _ _ => rfl⟩
  · exact encode_refusesLong hf addr delim hlong
  · exact encode_responds (v := .rtu) hf addr delim hfits
  · exact encode_responds (v := .ascii) hf addr delim hfits

/-! ### The checksum of a variant, as MATCHES sees it (R163, R192, R193) -/

/-- The checksum bytes the encoder appends to a body (R192, R193). -/
def checksumBytes : Variant → List Byte → List Byte
  | .ascii, body => [lrc body]
  | .rtu, body => crcTrailer (crcOut body)

theorem checksumBytes_length (v : Variant) (body : List Byte) : (checksumBytes v body).length = trailerWidth v := by
  cases v <;> rfl

theorem eq_joined_iff_crcTrailer (o : Half) (x y : Byte) : o = x ++ y ↔ [x, y] = crcTrailer o := by
  rw [eq_joined_iff, crcTrailer, List.cons.injEq, List.cons.injEq]
  simp [eq_comm]

/-- A unit matches exactly when its trailer is what the encoder would append to its data region. -/
theorem SerialAdu.splitsAs.matchesFlag_iff {u : SerialAdu} {d trailer : List Byte} (h : u.splitsAs d trailer) :
    u.matchesFlag = true ↔ trailer = checksumBytes u.variant d := by
  have ⟨_, hwidth⟩ := h
  cases hv : u.variant with
  | ascii =>
    rw [hv] at hwidth
    obtain ⟨x, rfl⟩ := List.length_eq_one_iff.mp hwidth
    rw [h.matchesFlag_ascii hv, decide_eq_true_iff, checksumBytes, List.singleton_inj, eq_comm]
  | rtu =>
    rw [hv] at hwidth
    obtain ⟨x, y, rfl⟩ := List.length_eq_two.mp hwidth
    rw [h.matchesFlag_rtu hv, decide_eq_true_iff, checksumBytes, eq_joined_iff_crcTrailer]

/-! ### The payload of an encoded frame (R190, R119) -/

theorem payload_encodeFrame (c : HexCase) (v : Variant) (addr : Byte) (p : Pdu) (delim : Byte) :
    payload v (encodeFrame c v addr p delim) = frameBody addr p ++ checksumBytes v (frameBody addr p) := by
  cases v with
  | rtu => rfl
  | ascii =>
    rw [payload, encodeFrame, asciiInterior_framed, hexPrefixDecodeInvertsHexEncode]
    rfl

theorem encodeFrame_splitsAs (c : HexCase) (v : Variant) (addr : Byte) (p : Pdu) (delim : Byte) :
    SerialAdu.splitsAs ⟨v, encodeFrame c v addr p delim⟩ (frameBody addr p) (checksumBytes v (frameBody addr p)) :=
  ⟨payload_encodeFrame c v addr p delim, checksumBytes_length v _⟩

theorem frameBody_length (addr : Byte) (p : Pdu) : (frameBody addr p).length = 2 + p.pdata.length :=
  Nat.add_comm p.pdata.length 2

section frame
variable {u : SerialAdu} {addr : Byte} {p : Pdu} {trailer : List Byte} (h : u.splitsAs (frameBody addr p) trailer)
include h

/-- A body has an address and a function code, so none of the tests of R129 fails. -/
theorem SerialAdu.splitsAs.firstCause_of_frameBody (n : Nat) : firstCause n u = none := by
  have hlen : trailerWidth u.variant + 1 < u.payload.length := by
    rw [h.length_eq, frameBody_length]
    omega
  cases hc : firstCause n u with
  | none => rfl
  | some c => cases (firstCause_four hlen).symm.trans (firstCause_four_of_firstCause hc)

theorem SerialAdu.splitsAs.emptyFlag_of_frameBody : u.emptyFlag = false := by
  obtain ⟨hpayload, -⟩ := h
  rw [u.emptyFlag_eq, hpayload]
  rfl

/-- A unit with a body in its payload answers every reader. -/
theorem frame_responds (i : Instr) (hi : i ∈ unitReaders) {s : State} (hf : s.fault = none) (hu : s.unit = some u)
    {r : Response} (hr : answerOf i u = r) : exec i s = .next (s.respond r) :=
  reader_responds i hi hf hu (h.firstCause_of_frameBody _) hr

theorem frame_serverAddress {s : State} (hf : s.fault = none) (hu : s.unit = some u) :
    exec .serverAddress s = .next (s.respond (.byte addr)) :=
  frame_responds h .serverAddress (by decide) hf hu (congrArg Response.byte h.address_eq)

theorem frame_pdu {s : State} (hf : s.fault = none) (hu : s.unit = some u) :
    exec .pdu s = .next (s.respond (.pdu p)) :=
  frame_responds h .pdu (by decide) hf hu (congrArg Response.pdu h.pdu_eq)

end frame

/-! ### Encode then decode (R195) -/

/-- The two bytes of `o` in wire order are read back as `o` (R53, R87). -/
theorem SerialAdu.splitsAs.trailer16_crcTrailer {u : SerialAdu} {d : List Byte} {o : Half}
    (h : u.splitsAs d (crcTrailer o)) : u.trailer16 = o :=
  h.trailer16_eq.trans (append_bytes o)

/-- Settles O51: the payload of the frame splits into the body and its checksum, so every reader is admitted, and each
answer is a view of that split. -/
theorem encodeThenDecodeGivesBackTheInputs : Obligations.EncodeThenDecodeGivesBackTheInputs := by
  intro s v addr p delim hf hfits
  let f := encodeFrame s.params.hexCase v addr p delim
  let s1 := s.respond (.bytes f)
  have h : SerialAdu.splitsAs ⟨v, f⟩ (frameBody addr p) (checksumBytes v (frameBody addr p)) :=
    encodeFrame_splitsAs ..
  have hload : exec (.decode v f) s1 = .next (s1.loadUnit v f) := by
    rw [exec_decode, withLength_of_fits (s := s1) hf ((encodeFrame_length ..).trans_le hfits)]
  have answers (i : Instr) (hi : i ∈ unitReaders) {r : Response} (hr : answerOf i ⟨v, f⟩ = r) :
      exec i (s1.loadUnit v f) = .next ((s1.loadUnit v f).respond r) :=
    frame_responds h i hi (s := s1.loadUnit v f) hf rfl hr
  refine ⟨f, s1, s1.loadUnit v f, encode_responds hf addr delim hfits, rfl, hload, ?empty, ?size, ?data,
    frame_serverAddress h hf rfl, frame_pdu h hf rfl, ?flag, ?raw, ?rtu, ?ascii⟩
  case empty => exact answers .empty (by decide) (congrArg Response.bit h.emptyFlag_of_frameBody)
  case size =>
    exact answers .size (by decide) (congrArg Response.number (h.logicalSize_eq.trans (frameBody_length addr p)))
  case data => exact answers .data (by decide) (congrArg Response.bytes h.dataRegion_eq)
  case flag => exact answers .matchesTrailer (by decide) (congrArg Response.bit (h.matchesFlag_iff.mpr rfl))
  case raw => exact answers .rawData (by decide) rfl
  case rtu =>
    rintro rfl
    exact answers .checksum (by decide) (congrArg Response.half h.trailer16_crcTrailer)
  case ascii =>
    rintro rfl
    exact answers .checksum (by decide) (congrArg Response.byte h.trailer8_eq)

/-! ### Decode then encode (R196) -/

theorem isHex_hexChar (c : HexCase) (v : BitVec 4) : isHex (hexChar c v) = true :=
  isHex_eq_true_iff.mpr ⟨v, hexVal_hexChar c v⟩

theorem nibbles_of_append (d0 d1 : BitVec 4) :
    (d0 ++ d1 : Byte).extractLsb' 4 4 = d0 ∧ (d0 ++ d1 : Byte).extractLsb' 0 4 = d1 := by
  revert d0 d1
  decide

/-- Whole pairs of digits of one case are what the encoder of that case writes for the bytes they decode to. -/
theorem hexEncode_hexPrefixDecode (c : HexCase) {t : List Byte} (hchars : ∀ x ∈ t, ∃ v, x = hexChar c v)
    (heven : t.length % 2 = 0) : hexEncode c (hexPrefixDecode t) = t := by
  induction t using List.twoStepInduction with
  | nil => rfl
  | singleton x => cases heven
  | cons_cons x y t ih _ =>
    rw [List.forall_mem_cons, List.forall_mem_cons] at hchars
    obtain ⟨⟨d0, rfl⟩, ⟨d1, rfl⟩, hrest⟩ := hchars
    obtain ⟨hhigh, hlow⟩ := nibbles_of_append d0 d1
    have hrestEven : t.length % 2 = 0 := (Nat.add_mod_right ..).symm.trans heven
    rw [hexPrefixDecode_cons_cons (hexVal_hexChar c d0) (hexVal_hexChar c d1), hexEncode_cons, hhigh, hlow,
      ih hrest hrestEven]

/-- Where the framing bytes stand in a frame (R193, R197). -/
theorem framed_getElem? (a x y : Byte) (t : List Byte) :
    ([a] ++ t ++ [x, y])[0]? = some a ∧ ([a] ++ t ++ [x, y])[([a] ++ t ++ [x, y]).length - 2]? = some x ∧
      ([a] ++ t ++ [x, y])[([a] ++ t ++ [x, y]).length - 1]? = some y := by
  simp

/-- A raw sequence is its interior between its first byte and its last two (R117). -/
theorem eq_framed_asciiInterior {r : List Byte} {a x y : Byte} (hlen : 3 ≤ r.length) (ha : r[0]? = some a)
    (hx : r[r.length - 2]? = some x) (hy : r[r.length - 1]? = some y) : r = [a] ++ asciiInterior r ++ [x, y] := by
  obtain ⟨d, x', y', rfl⟩ := exists_append_pair (show 2 ≤ r.length by omega)
  cases d with
  | nil => exact absurd hlen (by simp)
  | cons a' t =>
    obtain ⟨ha', hx', hy'⟩ := framed_getElem? a' x' y' t
    cases ha'.symm.trans ha
    cases hx'.symm.trans hx
    cases hy'.symm.trans hy
    exact (congrArg ([a] ++ · ++ [x, y]) (asciiInterior_framed a x y t)).symm

/-- A payload with room for an address, a function code and the trailer splits into a body and the trailer. -/
theorem SerialAdu.exists_splitsAs_frameBody {u : SerialAdu} (hlen : 2 + trailerWidth u.variant ≤ u.payload.length) :
    ∃ addr p trailer, u.splitsAs (frameBody addr p) trailer := by
  match hq : u.payload with
  | [] => simp [hq] at hlen
  | [_] =>
    rw [hq, List.length_singleton] at hlen
    omega
  | addr :: fc :: rest =>
    have hrest : trailerWidth u.variant ≤ rest.length := by
      simp only [hq, List.length_cons] at hlen
      omega
    let n := rest.length - trailerWidth u.variant
    refine ⟨addr, ⟨fc, rest.take n⟩, rest.drop n, ?_, ?_⟩
    · rw [hq, frameBody, List.append_assoc, List.take_append_drop]
      rfl
    · rw [List.length_drop, Nat.sub_sub_self hrest]

/-- Where MATCHES is 1, such a payload is a body with the body's own checksum. -/
theorem payload_of_matching {v : Variant} {r : List Byte} (hlen : 2 + trailerWidth v ≤ (payload v r).length)
    (hmatch : SerialAdu.matchesFlag ⟨v, r⟩ = true) :
    ∃ addr p, payload v r = frameBody addr p ++ checksumBytes v (frameBody addr p) := by
  obtain ⟨addr, p, trailer, h⟩ := SerialAdu.exists_splitsAs_frameBody (u := ⟨v, r⟩) hlen
  obtain rfl := h.matchesFlag_iff.mp hmatch
  obtain ⟨hpayload, -⟩ := h
  exact ⟨addr, p, hpayload⟩

/-- A well-formed frame is one the encoder writes. -/
theorem wellFormedFrame.exists_eq_encodeFrame {c : HexCase} {delim : Byte} {v : Variant} {r : List Byte}
    (h : wellFormedFrame c delim v r) : ∃ addr p, r = encodeFrame c v addr p delim := by
  cases v with
  | rtu =>
    obtain ⟨hlen, hmatch⟩ := h
    exact payload_of_matching (v := .rtu) hlen hmatch
  | ascii =>
    obtain ⟨hlen, hodd, hcolon, hcr, hdelim, hchars, hmatch⟩ := h
    have hinterior := asciiInterior_length r
    have hdecoded : (payload .ascii r).length = (r.length - 3) / 2 := payload_ascii_length fun x hx => by
      obtain ⟨d, rfl⟩ := hchars x hx
      exact isHex_hexChar c d
    have hroom : 3 ≤ (payload .ascii r).length := by omega
    obtain ⟨addr, p, hpayload⟩ := payload_of_matching (v := .ascii) hroom hmatch
    refine ⟨addr, p, ?_⟩
    calc r = [charColon] ++ asciiInterior r ++ [charCr, delim] :=
          eq_framed_asciiInterior (by omega) hcolon hcr hdelim
      _ = [charColon] ++ hexEncode c (payload .ascii r) ++ [charCr, delim] := by
          rw [payload, hexEncode_hexPrefixDecode c hchars (by omega)]
      _ = encodeFrame c .ascii addr p delim := by
          rw [hpayload]
          rfl

/-- Settles O52: the held frame is one the encoder writes, for the address and PDU the accessors answer. -/
theorem decodeThenEncodeReproducesTheFrame : Obligations.DecodeThenEncodeReproducesTheFrame := by
  intro s v r delim hf hfits hu hwf
  obtain ⟨addr, p, rfl⟩ := hwf.exists_eq_encodeFrame
  have h := encodeFrame_splitsAs s.params.hexCase v addr p delim
  rw [encodeFrame_length] at hfits
  exact ⟨addr, p, frame_serverAddress h hf hu, frame_pdu h hf hu, encode_responds hf addr delim hfits⟩

/-! ### The shape of an ASCII response (R197) -/

theorem exists_hexChar_of_mem_hexEncode {c : HexCase} {s : List Byte} {x : Byte} (h : x ∈ hexEncode c s) :
    ∃ v, x = hexChar c v := by
  obtain ⟨b, -, hb⟩ := List.mem_flatMap.mp h
  simp only [hexPair, List.mem_cons, List.not_mem_nil, or_false] at hb
  rcases hb with rfl | rfl
  · exact ⟨_, rfl⟩
  · exact ⟨_, rfl⟩

/-- From byte 1 up to the last two, a frame holds its interior. -/
theorem mem_of_framed_getElem? {a x y z : Byte} {t : List Byte} {i : Nat} (hpos : 1 ≤ i)
    (hi : i < ([a] ++ t ++ [x, y]).length - 2) (h : ([a] ++ t ++ [x, y])[i]? = some z) : z ∈ t := by
  obtain ⟨j, rfl⟩ := Nat.exists_eq_add_of_le' hpos
  have hj : j < t.length := by simpa using hi
  have hz : (t ++ [x, y])[j]? = some z := h
  rw [List.getElem?_append_left hj] at hz
  exact List.mem_of_getElem? hz

/-- Settles O53: the frame is its framing bytes around the hex characters of the body and the LRC. -/
theorem asciiFrameShape : Obligations.AsciiFrameShape := by
  intro s addr p delim hf hfits
  have hlen : (encodeFrame s.params.hexCase .ascii addr p delim).length = 2 * p.pdata.length + 9 :=
    encodeFrame_length ..
  obtain ⟨hcolon, hcr, hdelim⟩ := framed_getElem? charColon charCr delim
    (hexEncode s.params.hexCase (frameBody addr p ++ [lrc (frameBody addr p)]))
  refine ⟨encodeFrame s.params.hexCase .ascii addr p delim, encode_responds hf addr delim hfits, hcolon, hcr, hdelim,
    by omega, by omega, fun i x hpos hi hx => ?_, rfl, rfl⟩
  obtain ⟨v, rfl⟩ := exists_hexChar_of_mem_hexEncode (mem_of_framed_getElem? hpos hi hx)
  exact ⟨isHex_hexChar _ v, v, rfl⟩

end Sys2Proof.Machine
end

section
/-! # Proofs of the exceptions family (spec/60_exceptions.md)

The outcome of a fault as one equivalence, an operation enters fault `c` exactly when its row of R212 lists `c` and `c`
is true of the unit register, and runs of an idle and of a faulted block. -/

namespace Sys2Proof.Machine

/-! ### Idle and faulted steps (R226, R214) -/

/-- The step's rule for an empty inbox. -/
theorem step_of_idle {s : State} (hin : s.inbox = []) : step s = .next s := by
  simp [step, hin]

/-- Settles O3: the rule for an empty inbox. -/
theorem idleBlockKeepsItsState : Obligations.IdleBlockKeepsItsState :=
  fun _ => step_of_idle

/-- Settles O11, from the rule that every operation tests the fault record first. -/
theorem faultedBlockRefusesEveryOperation : Obligations.FaultedBlockRefusesEveryOperation :=
  fun s c i => exec_refusesWhenFaulted i s c

/-- While a fault is recorded a command is refused, whether or not it selects an operation. -/
theorem step_of_faulted_command {s : State} {c : FaultCause} {cmd : Command} {rest : List HostEvent}
    (hf : s.fault = some c) (hin : s.inbox = .command cmd :: rest) :
    ∃ r, step s = .next ((s.withInbox rest).refuse r) := by
  cases hdec : decode cmd with
  | error e => exact ⟨.reservedOp, step_of_reserved hin hdec⟩
  | ok i => exact ⟨.faulted, (step_of_command hin hdec).trans (exec_refusesWhenFaulted i _ c hf)⟩

/-! ### A fault is final (R214, R252) -/

theorem run_of_idle {s : State} (hin : s.inbox = []) (n : Nat) : run n s = .next s := by
  induction n with
  | zero => rfl
  | succ n ih => exact (run_succ (step_of_idle hin) n).trans ih

/-- Everything a run that meets no reset can do from a faulted state: no command is performed and the state is kept, or
the commands are taken and the last of them has left a refusal. -/
theorem run_of_faulted {s : State} {c : FaultCause} (hf : s.fault = some c) {n : Nat}
    (hreset : HostEvent.reset ∉ s.inbox.take n) :
    ((n = 0 ∨ s.inbox = []) ∧ run n s = .next s) ∨
    (∃ r, run n s = .next ((s.withInbox (s.inbox.drop n)).refuse r)) := by
  induction n generalizing s with
  | zero => exact .inl ⟨.inl rfl, rfl⟩
  | succ n ih =>
    cases hin : s.inbox with
    | nil => exact .inl ⟨.inr rfl, run_of_idle hin (n + 1)⟩
    | cons event rest =>
      rw [hin, List.take_succ_cons, List.mem_cons, not_or] at hreset
      obtain ⟨hevent, hrest⟩ := hreset
      cases event with
      | reset => exact absurd rfl hevent
      | command cmd =>
        obtain ⟨r, hstep⟩ := step_of_faulted_command hf hin
        rw [run_succ hstep, List.drop_succ_cons]
        rcases ih (s := (s.withInbox rest).refuse r) hf hrest with ⟨hstill, e⟩ | ⟨r', e⟩
        · have hdrop : rest.drop n = rest := by
            rcases hstill with rfl | hnil
            · rfl
            · rw [show rest = [] from hnil, List.drop_nil]
          exact .inr ⟨r, by rw [e, hdrop]⟩
        · exact .inr ⟨r', e⟩

/-- Settles O12: what such a run leaves of a faulted state differs from it in inbox and response alone. -/
theorem faultIsFinalUntilReset : Obligations.FaultIsFinalUntilReset := by
  intro n s t c hf hreset h
  rcases run_of_faulted hf hreset with ⟨hstill, e⟩ | ⟨r, e⟩
  · cases e.symm.trans h
    refine ⟨hf, rfl, fun hn hne => ?_⟩
    rcases hstill with hzero | hnil
    · exact absurd hzero hn.ne'
    · exact absurd hnil hne
  · cases e.symm.trans h
    exact ⟨hf, rfl, fun _ _ => ⟨r, rfl⟩⟩

/-! ### Fault entry (R213) -/

/-- The only way a cause comes to be recorded: fault entry with that cause, which the operation's row of R212 lists. -/
theorem takeFault_of_exec {i : Instr} {s t : State} {c : FaultCause} (hf : s.fault = none) (h : exec i s = .next t)
    (ht : t.fault = some c) : mayRaise i c = true ∧ t = s.takeFault c := by
  rcases exec_fault h with hkeep | ⟨c', hmay, -, rfl⟩
  · cases (hkeep.trans hf).symm.trans ht
  · cases ht
    exact ⟨hmay, rfl⟩

/-- Settles O14: the next state is the named update `takeFault`. -/
theorem faultEntryIsPrecise : Obligations.FaultEntryIsPrecise :=
  fun _ _ _ _ hf h ht => (takeFault_of_exec hf h ht).2

/-! ### Causes and unit tests (R211, R215) -/

/-- Which of the unit tests of R129 raises the cause, counted from 1; 0 for `NoUnit`, which comes before them. -/
def FaultCause.testNumber : FaultCause → Nat
  | .noUnit => 0
  | .emptyUnit => 1
  | .shortUnit => 2
  | .noAddress => 3
  | .noFunctionCode => 4

/-- The table of R212 in one comparison: a reader can raise the causes of the tests it makes. -/
theorem mayRaise_iff {i : Instr} {c : FaultCause} :
    mayRaise i c = true ↔ i ∈ unitReaders ∧ c.testNumber ≤ testsOf i := by
  cases i with
  | decode | lrc8 | crc16 | encode => simp [mayRaise, unitReaders]
  | _ => cases c <;> decide

/-- There are four unit tests. -/
theorem firstCause_of_four_le {n : Nat} (hn : 4 ≤ n) (u : SerialAdu) : firstCause n u = firstCause 4 u := by
  rw [firstCause, List.take_of_length_le (l := unitTests) hn]
  rfl

/-- If a cause is true of the unit, the tests up to the cause's own raise it, and so do more tests. -/
theorem firstCause_of_explains {u : SerialAdu} {c : FaultCause} (h : c.explains (some u)) {n : Nat}
    (hn : c.testNumber ≤ n) : firstCause n u = some c := by
  cases c with
  | noUnit => cases h
  | emptyUnit =>
    obtain ⟨_, ⟨⟩, hempty⟩ := h
    exact firstCause_empty hn hempty
  | shortUnit =>
    obtain ⟨_, ⟨⟩, hpos, hshort⟩ := h
    exact firstCause_short hn hpos.ne' hshort
  | noAddress =>
    obtain ⟨_, ⟨⟩, hlen⟩ := h
    exact firstCause_noAddress hn hlen
  | noFunctionCode =>
    obtain ⟨_, ⟨⟩, hlen⟩ := h
    exact (firstCause_of_four_le hn u).trans (firstCause_noFunctionCode hlen)

theorem explains_none_iff {c : FaultCause} : c.explains none ↔ c = .noUnit := by
  cases c <;> simp [FaultCause.explains]

/-- At most one cause is true of a unit register, since the first unit test that holds is one test. -/
theorem explains_unique {u : Option SerialAdu} {c d : FaultCause} (hc : c.explains u) (hd : d.explains u) : c = d := by
  cases u with
  | none => exact (explains_none_iff.mp hc).trans (explains_none_iff.mp hd).symm
  | some u =>
    have hc4 : firstCause 4 u = some c := firstCause_of_explains hc (by cases c <;> decide)
    have hd4 : firstCause 4 u = some d := firstCause_of_explains hd (by cases d <;> decide)
    exact Option.some.inj (hc4.symm.trans hd4)

/-! ### When an operation faults (R212) -/

/-- A cause an operation records is true of the unit register it read. -/
theorem explains_of_exec {i : Instr} {s t : State} {c : FaultCause} (hf : s.fault = none) (h : exec i s = .next t)
    (ht : t.fault = some c) : c.explains s.unit := by
  rcases exec_cases i s with ⟨_, e, -⟩ | ⟨-, -, hu, e⟩ | ⟨u, c', -, -, hu, hc, e⟩ | ⟨_, -, -, -, -, e⟩ |
    ⟨-, -, -, e⟩ | ⟨_, _, -, -, -, e⟩ <;> cases e.symm.trans h
  · cases hf.symm.trans ht
  · cases ht
    exact hu
  · cases ht
    exact hu ▸ explains_of_firstCause hc
  · cases hf.symm.trans ht
  · cases hf.symm.trans ht
  · cases hf.symm.trans ht

/-- With no fault recorded, an operation enters fault `c` exactly when its row lists `c` and `c` is true of the unit. -/
theorem exec_eq_takeFault_iff {i : Instr} {s : State} {c : FaultCause} (hf : s.fault = none) :
    exec i s = .next (s.takeFault c) ↔ mayRaise i c = true ∧ c.explains s.unit := by
  constructor
  · intro h
    exact ⟨(takeFault_of_exec hf h rfl).1, explains_of_exec hf h rfl⟩
  · rintro ⟨hmay, hexp⟩
    obtain ⟨hread, htests⟩ := mayRaise_iff.mp hmay
    cases hu : s.unit with
    | none =>
      rw [hu, explains_none_iff] at hexp
      exact hexp ▸ reader_faultsWithoutUnit hread s hf hu
    | some u => exact reader_takesFault hread hf hu (firstCause_of_explains (hu ▸ hexp) htests)

/-- Every cause is true of some unit register: none, or `Rtu` units of 0 to 3 bytes. -/
theorem exists_explains (c : FaultCause) : ∃ u, c.explains u := by
  cases c with
  | noUnit => exact ⟨none, rfl⟩
  | emptyUnit => exact ⟨some ⟨.rtu, []⟩, _, rfl, rfl⟩
  | shortUnit => exact ⟨some ⟨.rtu, [5]⟩, _, rfl, by decide⟩
  | noAddress => exact ⟨some ⟨.rtu, [5, 6]⟩, _, rfl, rfl⟩
  | noFunctionCode => exact ⟨some ⟨.rtu, [5, 6, 7]⟩, _, rfl, rfl⟩

/-- Settles O15: fault entry keeps to the table, and a listed cause is raised on a unit register of which it is true. -/
theorem causesFollowTheTable : Obligations.CausesFollowTheTable := by
  refine ⟨fun i s t c hf h ht => (takeFault_of_exec hf h ht).1, fun i c hmay => ?_⟩
  obtain ⟨u, hexp⟩ := exists_explains c
  exact ⟨{ State.reset with unit := u }, _, rfl, (exec_eq_takeFault_iff rfl).mpr ⟨hmay, hexp⟩, rfl⟩

/-- Settles O16: PDU's row lists every cause, so it faults with `c` exactly when `c` is true of the unit. -/
theorem causesHoldUnderTheirConditions : Obligations.CausesHoldUnderTheirConditions := by
  refine ⟨fun s c hf => ?_, fun u c d => explains_unique, rfl⟩
  have hrow : mayRaise .pdu c = true := rfl
  exact ((exec_eq_takeFault_iff hf).trans (and_iff_right hrow)).symm

end Sys2Proof.Machine
end

section
/-! # Proofs of the reset and hazards family (spec/70_reset_and_hazards.md)

Reset, runs of every length, the host's checks before a reader, and what the decoder does not see behind a complete
interior. -/

namespace Sys2Proof.Machine

/-! ### Runs (R254, R242) -/

/-- Settles O6, by induction on the length of the run: no step stops. -/
theorem everyRunAnswersANextState : Obligations.EveryRunAnswersANextState := by
  intro n
  induction n with
  | zero => exact fun s => ⟨s, rfl⟩
  | succ n ih =>
    intro s
    obtain ⟨t, ht⟩ := step_next s
    rw [run_succ ht]
    exact ih t

/-- What every step keeps, every run keeps. -/
theorem run_keeps {P : State → Prop} (hstep : ∀ s t, P s → step s = .next t → P t) {n : Nat} {s t : State} (hs : P s)
    (h : run n s = .next t) : P t := by
  induction n generalizing s with
  | zero =>
    cases h
    exact hs
  | succ n ih =>
    obtain ⟨m, hm⟩ := step_next s
    exact ih (hstep s m hs hm) ((run_succ hm n).symm.trans h)

/-- None of the updates an operation can end with writes the parameters. -/
theorem exec_params {i : Instr} {s t : State} (h : exec i s = .next t) : t.params = s.params := by
  rcases exec_cases i s with ⟨_, e, -⟩ | ⟨-, -, -, e⟩ | ⟨_, _, -, -, -, -, e⟩ | ⟨_, -, -, -, -, e⟩ |
    ⟨-, -, -, e⟩ | ⟨_, _, -, -, -, e⟩ <;> cases e.symm.trans h <;> rfl

theorem step_params {s t : State} (h : step s = .next t) : t.params = s.params := by
  rcases step_cases s with ⟨-, e⟩ | ⟨_, -, e⟩ | ⟨_, _, _, -, -, e⟩ | ⟨_, rest, i, -, -, e⟩
  · cases e.symm.trans h
    rfl
  · cases e.symm.trans h
    rfl
  · cases e.symm.trans h
    rfl
  · exact (exec_params (e.symm.trans h)).trans (s.withInbox_params rest)

/-- Settles O13: to have the parameters of the first state is kept by every step, and so by every run. -/
theorem parametersNeverChange : Obligations.ParametersNeverChange := fun _ s _ h =>
  run_keeps (P := fun t => t.params = s.params) (fun _ _ hs ht => (step_params ht).trans hs) rfl h

/-! ### The host's checks (R244) -/

section checks
variable {i : Instr} {s : State} {u : SerialAdu}

/-- A response that leaves no fault is the reader's answer about the unit. -/
theorem answerOf_of_exec (hi : i ∈ unitReaders) (hf : s.fault = none) (hu : s.unit = some u) {r : Response}
    (h : exec i s = .next (s.respond r)) : answerOf i u = r := by
  cases hc : firstCause (testsOf i) u with
  | some c =>
    have hfault := congrArg State.fault (Host.Outcome.next.inj ((reader_takesFault hi hf hu hc).symm.trans h))
    cases hfault.trans hf
  | none =>
    have hresponse := congrArg State.response (Host.Outcome.next.inj ((reader_responds i hi hf hu hc rfl).symm.trans h))
    exact Option.some.inj hresponse

/-- A reader whose tests raise nothing leaves no fault. -/
theorem reader_good (hi : i ∈ unitReaders) (hf : s.fault = none) (hu : s.unit = some u)
    (hc : firstCause (testsOf i) u = none) : ∃ t, exec i s = .next t ∧ t.good :=
  ⟨_, reader_responds i hi hf hu hc rfl, hf⟩

/-- A payload that is not empty has room for the trailer, which for `Rtu` takes two raw bytes. -/
theorem SerialAdu.trailerWidth_le_of_not_empty (hempty : u.emptyFlag = false)
    (hrtu : u.variant = .rtu → 2 ≤ u.raw.length) : trailerWidth u.variant ≤ u.payload.length := by
  cases hv : u.variant with
  | ascii =>
    rw [u.emptyFlag_eq, decide_eq_false_iff_not] at hempty
    exact List.length_pos_iff.mpr hempty
  | rtu =>
    rw [SerialAdu.payload, hv]
    exact hrtu hv

end checks

/-- Settles O54: EMPTY's answer leaves room for the trailer, and SIZE's answer is what the payload has beyond it. -/
theorem checkedAccessorsNeverFault : Obligations.CheckedAccessorsNeverFault := by
  intro s u hf hu hempty hrtu
  have hflag : u.emptyFlag = false := Response.bit.inj (answerOf_of_exec (by decide) hf hu hempty)
  have hwidth := SerialAdu.trailerWidth_le_of_not_empty hflag hrtu
  refine ⟨fun i hi => ?_, fun n hanswer => ?_⟩
  · have hrows : ∀ i ∈ [Instr.size, .data, .checksum, .matchesTrailer], i ∈ unitReaders ∧ testsOf i = 2 := by decide
    obtain ⟨hread, htests⟩ := hrows i hi
    exact reader_good hread hf hu (htests ▸ firstCause_two hwidth)
  · have hsize : u.payload.length - trailerWidth u.variant = n :=
      Response.number.inj (answerOf_of_exec (i := .size) (by decide) hf hu hanswer)
    exact ⟨fun hn => reader_good (by decide) hf hu (firstCause_three (by omega)),
      fun hn => reader_good (by decide) hf hu (firstCause_four (by omega))⟩

/-! ### What follows a complete interior (R247) -/

/-- A lone byte makes no pair, and a byte that is no digit ends the digits. -/
theorem hexPrefixDecode_of_malformed {tail : List Byte}
    (h : tail.length ≤ 1 ∨ ∃ z rest, tail = z :: rest ∧ isHex z = false) : hexPrefixDecode tail = [] := by
  rcases h with hshort | ⟨z, rest, rfl, hz⟩
  · have hlen := hexPrefixDecode_length tail
    have hle := hexPrefix_length_le tail
    exact List.length_eq_zero_iff.mp (by omega)
  · rw [hexPrefixDecode, hexPrefix_cons_of_not_isHex hz]
    rfl

/-- The payload of a frame around encoded bytes, whatever follows them in the interior. -/
theorem payload_framed_hexEncode_append (c : HexCase) (q tail : List Byte) (a x y : Byte) :
    payload .ascii ([a] ++ (hexEncode c q ++ tail) ++ [x, y]) = q ++ hexPrefixDecode tail := by
  rw [payload, asciiInterior_framed, hexPrefixDecode_hexEncode_append]

/-- MATCHES reads the payload alone. -/
theorem matchesFlag_congr_payload {v : Variant} {raw raw' : List Byte} (h : payload v raw = payload v raw') :
    SerialAdu.matchesFlag ⟨v, raw⟩ = SerialAdu.matchesFlag ⟨v, raw'⟩ :=
  Response.bit.inj (answerOf_congr_payload h (i := .matchesTrailer) (by decide))

/-- Settles O55: the tail decodes to nothing, so both frames have the payload `q`. -/
theorem malformedTailIsNotDetected : Obligations.MalformedTailIsNotDetected := by
  intro c q tail a x y htail
  have hpayload : payload .ascii ([a] ++ (hexEncode c q ++ tail) ++ [x, y]) = q := by
    rw [payload_framed_hexEncode_append, hexPrefixDecode_of_malformed htail, List.append_nil]
  have hclean : payload .ascii ([a] ++ hexEncode c q ++ [x, y]) = q := by
    rw [payload, asciiInterior_framed, hexPrefixDecodeInvertsHexEncode]
  exact ⟨hpayload, matchesFlag_congr_payload (hpayload.trans hclean.symm)⟩

/-! ### Reset (R240, R241) -/

theorem pureAnswer_ne_refused (c : HexCase) (i : Instr) (r : Rejection) : pureAnswer c i ≠ .refused r := by
  cases i <;> simp [pureAnswer]

/-- DECODE and the pure operations, if well formed, answer without fault or refusal wherever no fault is recorded. -/
theorem nonreader_succeeds {i : Instr} (hi : i ∉ unitReaders) {s : State} (hf : s.fault = none)
    (hfits : i.wellFormed s.params.maxLen = true) :
    ∃ t, exec i s = .next t ∧ t.fault = none ∧ ∀ r, t.response ≠ some (.refused r) := by
  rcases instr_cases i with hread | hpure | ⟨v, bytes, rfl⟩
  · exact absurd hread hi
  · refine ⟨s.respond (pureAnswer s.params.hexCase i), ?_, hf, fun r hr => ?_⟩
    · rw [exec_pure hpure, withLength_of_fits hf ((wellFormed_iff_pureLength hpure _ _).mp hfits)]
    · exact pureAnswer_ne_refused _ i r (Option.some.inj hr)
  · refine ⟨s.loadUnit v bytes, ?_, hf, fun r hr => ?_⟩
    · rw [exec_decode, withLength_of_fits hf (of_decide_eq_true hfits)]
    · cases hr

/-- Settles O4: the reset state has no fault and no unit. -/
theorem resetStateAcceptsEveryOperation : Obligations.ResetStateAcceptsEveryOperation :=
  ⟨rfl, rfl, fun _ hi => reader_faultsWithoutUnit hi State.reset rfl rfl,
    fun _ hfits hi => nonreader_succeeds hi State.reset_fault hfits⟩

/-- The step's rule for a reset. -/
theorem step_of_reset {s : State} {rest : List HostEvent} (hin : s.inbox = .reset :: rest) :
    step s = .next (s.withInbox rest).afterReset := by
  simp [step, hin]

/-- Settles O5: the rule for a reset, whose next state is the reset state with parameters and inbox of `s`. -/
theorem resetClearsFaultAndUnit : Obligations.ResetClearsFaultAndUnit :=
  fun _ _ => step_of_reset

end Sys2Proof.Machine
end

section
/-! # Proofs of the remaining family: the reference vectors (spec/95_test_vectors.md S1, S2, V1, V17) -/

namespace Sys2Proof.Machine

/-- The register takes the values of T2 (spec/95_test_vectors.md), one per byte. -/
theorem crcReg_reference : crcReg [0x01, 0x03, 0x00, 0x00, 0x00, 0x01] = 0x2150#16 := by
  have h1 : crcByte crcInit 0x01#8 = 0x7E01#16 := by decide
  have h2 : crcByte 0x7E01#16 0x03#8 = 0x0284#16 := by decide
  have h3 : crcByte 0x0284#16 0x00#8 = 0x040F#16 := by decide
  have h4 : crcByte 0x040F#16 0x00#8 = 0x8F1B#16 := by decide
  have h5 : crcByte 0x8F1B#16 0x00#8 = 0x9821#16 := by decide
  have h6 : crcByte 0x9821#16 0x01#8 = 0x2150#16 := by decide
  simp only [crcReg, List.foldl_cons, List.foldl_nil, BitVec.ofNat_eq_ofNat, h1, h2, h3, h4, h5, h6]

theorem crcStd_reference : crcStd [0x01, 0x03, 0x00, 0x00, 0x00, 0x01] = 0x0A84#16 := by
  rw [crcStd, crcReg_reference]
  decide

/-- The sum of the reference input is 05 (S2). -/
theorem lrc_reference : lrc [0x01, 0x03, 0x00, 0x00, 0x00, 0x01] = 0xFB#8 := by
  have hsum : sum8 [0x01, 0x03, 0x00, 0x00, 0x00, 0x01] = 0x05#8 := by decide
  rw [lrc_eq_neg_sum8, hsum]
  decide

/-- Settles O50: output and wire bytes are `crc_std` with its bytes exchanged (O44). -/
theorem referenceVectors : Obligations.ReferenceVectors := by
  obtain ⟨-, -, -, hvalues, hwire⟩ := reflectionAndSwap
  refine ⟨crcReg_reference, crcStd_reference, ?_, ?_, lrc_reference⟩
  · rw [(hvalues _).2, crcStd_reference]
    decide
  · rw [hwire, crcStd_reference]
    decide

end Sys2Proof.Machine
end
